-- ==== Sys2Proof/Word.lean ====
section
/-! DEFINITION. Bytes, command words, arrays of state words and byte strings (spec/00_scope.md R9, R10). -/

namespace Sys2Proof

/-- A byte is 8 bits (R10). A byte string is a `List Byte`, index 0 first in stream order. -/
abbrev Byte := BitVec 8

/-- The command word `CMD` and the response word `RESP`: one 32-bit value each (30_encoding.md R70, R76). -/
abbrev CmdWord := BitVec 32

/-- An array of `N` words of `W` bits: the type of the permutation state, of the masks and of the constants (R6). -/
abbrev Words (W N : Nat) := Vector (BitVec W) N

/-- The array whose element `i` is `f i`, built from a list so that it evaluates by structural recursion. -/
def vec {α : Type} {n : Nat} (f : Fin n → α) : Vector α n := ⟨(List.ofFn f).toArray, by simp⟩

end Sys2Proof
end

