-- ==== Sys2Proof/Config.lean ====
section
/-! DEFINITION. The configuration record `CFG` (spec/00_scope.md R6 to R8) and the one configuration of the hardware,
an opaque constant: the spec gives no value for any field (92_eei_decisions.md D30 to D54, 93 U7). -/

namespace Sys2Proof

/-- `BYTE_ORDER`: how the bytes of a string make a word (20_memory.md R52). -/
inductive ByteOrder where
  | be
  | le
  deriving DecidableEq, Repr

/-- A well-formed `CFG`: the fields of the table of R6 under the spec's names, then the ranges of R6, the constraints of
R7 and the structure of the two layers of R8. An ill-formed record cannot be built (93_implementation_defined.md U4).
A round count is a natural bounded by `ROUNDS_MAX` and `RoundConst` has exactly the domain R6 gives it, so no meaning is
given to a larger count (41_permutation.md R127, 93 U2). -/
structure Cfg where
  /-- Width of a state word in bits. -/
  W : Nat
  /-- Number of state words. -/
  N : Nat
  /-- Number of rate words; they are the words `0 .. R_WORDS-1`. -/
  R_WORDS : Nat
  /-- Associated-data block width in bytes. -/
  AAD_WIDTH : Nat
  /-- Payload block width in bytes. -/
  PAY_WIDTH : Nat
  /-- Key length in bytes. -/
  KEY_LEN : Nat
  /-- Nonce length in bytes. -/
  NONCE_LEN : Nat
  /-- Tag length in bytes. -/
  TAG_LEN : Nat
  /-- Largest round count `RoundConst` is defined for. -/
  ROUNDS_MAX : Nat
  /-- Rounds run at construction. -/
  ROUNDS_INIT : Fin (ROUNDS_MAX + 1)
  /-- Rounds run after each absorbed block. -/
  ROUNDS_BLOCK : Fin (ROUNDS_MAX + 1)
  /-- Rounds run at tag generation. -/
  ROUNDS_FINAL : Fin (ROUNDS_MAX + 1)
  /-- Index of the word that receives the round constant. -/
  RC_WORD : Fin N
  /-- The constant of round `i` of a `rounds`-round call, for `0 <= i < rounds <= ROUNDS_MAX`. -/
  RoundConst : (rounds : Fin (ROUNDS_MAX + 1)) → Fin rounds.val → BitVec W
  /-- The nonlinear layer. -/
  Sub : Words W N → Words W N
  /-- The linear diffusion layer. -/
  Lin : Words W N → Words W N
  /-- The one byte order of every conversion. -/
  BYTE_ORDER : ByteOrder
  /-- The fixed non-zero marker of the padding. -/
  PAD_MARKER : Byte
  /-- The state made from key and nonce at construction. -/
  InitState : Vector Byte KEY_LEN → Vector Byte NONCE_LEN → Words W N
  /-- Key material XORed in after the init rounds. -/
  KeyMaskInit : Vector Byte KEY_LEN → Words W N
  /-- Key material XORed in before the finalization rounds. -/
  KeyMaskFinal : Vector Byte KEY_LEN → Words W N
  /-- The tag of a final state. -/
  TagDerive : Words W N → Vector Byte KEY_LEN → Vector Byte TAG_LEN
  /-- The domain-separation constant of the AAD flush. -/
  DS_AAD : Words W N
  /-- The domain-separation constant of the payload flush. -/
  DS_PAY : Words W N
  /-- When true, an AAD stream of total length 0 absorbs no padded block. -/
  AAD_EMPTY_SKIPS_PAD : Bool
  /-- When true, `ROUNDS_BLOCK` rounds follow the last (padded) payload block. -/
  PAY_LAST_PERMUTES : Bool
  -- The ranges of R6.
  W_pos : 0 < W
  W_bytes : 8 ∣ W
  N_min : 2 ≤ N
  R_WORDS_pos : 1 ≤ R_WORDS
  R_WORDS_lt : R_WORDS < N
  AAD_WIDTH_pos : 1 ≤ AAD_WIDTH
  AAD_WIDTH_field : AAD_WIDTH ≤ 255
  AAD_WIDTH_rate : AAD_WIDTH ≤ R_WORDS * (W / 8)
  PAY_WIDTH_pos : 1 ≤ PAY_WIDTH
  PAY_WIDTH_field : PAY_WIDTH ≤ 255
  PAY_WIDTH_rate : PAY_WIDTH ≤ R_WORDS * (W / 8)
  KEY_LEN_pos : 1 ≤ KEY_LEN
  KEY_LEN_field : KEY_LEN ≤ 255
  NONCE_LEN_pos : 1 ≤ NONCE_LEN
  NONCE_LEN_field : NONCE_LEN ≤ 255
  TAG_LEN_pos : 1 ≤ TAG_LEN
  TAG_LEN_field : TAG_LEN ≤ 65535
  ROUNDS_MAX_pos : 1 ≤ ROUNDS_MAX
  PAD_MARKER_ne : PAD_MARKER ≠ 0#8
  -- R7: the masks and the domain-separation constants are zero in every rate word.
  KeyMaskInit_rate : ∀ (k : Vector Byte KEY_LEN) (i : Fin N), i.val < R_WORDS → (KeyMaskInit k)[i] = 0#W
  KeyMaskFinal_rate : ∀ (k : Vector Byte KEY_LEN) (i : Fin N), i.val < R_WORDS → (KeyMaskFinal k)[i] = 0#W
  DS_AAD_rate : ∀ i : Fin N, i.val < R_WORDS → DS_AAD[i] = 0#W
  DS_PAY_rate : ∀ i : Fin N, i.val < R_WORDS → DS_PAY[i] = 0#W
  /-- R8 (a): bit `j` of every output word is the same Boolean function, for every `j`, of bit `j` of the input words. -/
  Sub_bitSliced : ∃ f : Vector Bool N → Vector Bool N, ∀ (S : Words W N) (j : Nat), j < W →
    (Sub S).map (·.getLsbD j) = f (S.map (·.getLsbD j))
  /-- R8 (b): word `i` of the output is the XOR of word `i` of the input with fixed rotations of it. -/
  Lin_rotations : ∃ rot : Fin N → List Nat, ∀ (S : Words W N) (i : Fin N),
    (Lin S)[i] = (rot i).foldl (fun w n => w ^^^ S[i].rotateRight n) S[i]

namespace Cfg

/-- `B = W/8`, the bytes per state word (R6). -/
def B (c : Cfg) : Nat := c.W / 8

/-- The type of the permutation state under `c`. -/
abbrev Perm (c : Cfg) := Words c.W c.N

/-- The type of the key under `c`. -/
abbrev Key (c : Cfg) := Vector Byte c.KEY_LEN

/-- The type of the nonce under `c`. -/
abbrev Nonce (c : Cfg) := Vector Byte c.NONCE_LEN

end Cfg

namespace Config

/-- Some well-formed record: it shows that the constraints of R6 to R8 can be met together, and nothing else rests on
it. It is no configuration of the hardware. -/
def smallest : Cfg where
  W := 8
  N := 2
  R_WORDS := 1
  AAD_WIDTH := 1
  PAY_WIDTH := 1
  KEY_LEN := 1
  NONCE_LEN := 1
  TAG_LEN := 1
  ROUNDS_MAX := 1
  ROUNDS_INIT := 0
  ROUNDS_BLOCK := 0
  ROUNDS_FINAL := 0
  RC_WORD := 0
  RoundConst := fun _ _ => 0#8
  Sub := id
  Lin := id
  BYTE_ORDER := .be
  PAD_MARKER := 1#8
  InitState := fun _ _ => vec fun _ => 0#8
  KeyMaskInit := fun _ => vec fun _ => 0#8
  KeyMaskFinal := fun _ => vec fun _ => 0#8
  TagDerive := fun _ k => k
  DS_AAD := vec fun _ => 0#8
  DS_PAY := vec fun _ => 0#8
  AAD_EMPTY_SKIPS_PAD := false
  PAY_LAST_PERMUTES := false
  W_pos := by decide
  W_bytes := by decide
  N_min := by decide
  R_WORDS_pos := by decide
  R_WORDS_lt := by decide
  AAD_WIDTH_pos := by decide
  AAD_WIDTH_field := by decide
  AAD_WIDTH_rate := by decide
  PAY_WIDTH_pos := by decide
  PAY_WIDTH_field := by decide
  PAY_WIDTH_rate := by decide
  KEY_LEN_pos := by decide
  KEY_LEN_field := by decide
  NONCE_LEN_pos := by decide
  NONCE_LEN_field := by decide
  TAG_LEN_pos := by decide
  TAG_LEN_field := by decide
  ROUNDS_MAX_pos := by decide
  PAD_MARKER_ne := by decide
  KeyMaskInit_rate := fun _ => by decide
  KeyMaskFinal_rate := fun _ => by decide
  DS_AAD_rate := by decide
  DS_PAY_rate := by decide
  Sub_bitSliced := ⟨id, fun _ _ _ => rfl⟩
  Lin_rotations := ⟨fun _ => [], fun _ _ => rfl⟩

/-- A configuration as a piece of hardware has it. The default only makes the type inhabited. -/
structure Installed where
  cfg : Cfg := smallest
  deriving Inhabited

/-- The configuration of THE hardware, with no body: nothing in Lean can tell which well-formed `CFG` it is, so a
statement about it holds for every one of them (00_scope.md R6; log entry 1). -/
opaque installed : Installed

/-- `CFG`, "fixed for the life of the hardware" (R6). -/
def cfg : Cfg := installed.cfg

end Config

end Sys2Proof
end

