-- ==== Sys2Proof/Syntax.lean ====
section
/-! DEFINITION. The eight host commands of `CORE` (spec/30_encoding.md R74, spec/opcode_table.json), one constructor per
row. Lengths are unsigned integers (R71, R72), so they are naturals here; WellFormed.lean gives their ranges. -/

namespace Sys2Proof

inductive Instr where
  /-- CONSTRUCT, opcode 0x01, format K: `klen` key bytes and `nlen` nonce bytes are sent (R71, R150). -/
  | construct (klen nlen : Nat)
  /-- INGEST_AAD, opcode 0x02, format L: `len` bytes of associated data are sent (R72, R151). -/
  | ingestAad (len : Nat)
  /-- ENCRYPT, opcode 0x03, format L: `len` plaintext bytes are sent (R72, R152). -/
  | encrypt (len : Nat)
  /-- DECRYPT, opcode 0x04, format L: `len` ciphertext bytes are sent (R72, R153). -/
  | decrypt (len : Nat)
  /-- FINISH, opcode 0x05, format Z (R73, R154). -/
  | finish
  /-- AUTHENTICATE, opcode 0x06, format Z (R73, R155). -/
  | authenticate
  /-- VERIFY, opcode 0x07, format L: `len` bytes of candidate tag are sent (R72, R156). -/
  | verify (len : Nat)
  /-- RELEASE, opcode 0x08, format Z (R73, R157). -/
  | release
  deriving DecidableEq, Repr

end Sys2Proof
end

