-- ==== Sys2Proof/Machine/State.lean ====
section
/-! DEFINITION. The state of `CORE` (spec/10_state.md R20 to R36) as plain data, what the host puts in and gets out
(spec/20_memory.md R50, spec/30_encoding.md R76), the reasons a step can stop, and the state after reset (R35). -/

namespace Sys2Proof.Machine

/-- `PHASE` (R25). The five values a 3-bit register may hold; 5 to 7 are never held (log entry 7). -/
inductive Phase where
  /-- 0: no engine instance exists. -/
  | idle
  /-- 1: constructed; associated data may be ingested. -/
  | absorbingAad
  /-- 2: the AAD was flushed; payload is being encrypted or decrypted. -/
  | absorbingPayload
  /-- 3: `FINISH` was executed. -/
  | finalized
  /-- 4: the tag was produced or checked. -/
  | tagged
  deriving DecidableEq, Repr

/-- `DIR` (R27). Value 3 of the 2-bit latch is never held (log entry 7). -/
inductive Dir where
  /-- 0: no payload command yet. -/
  | none
  /-- 1: the first payload command was `ENCRYPT`. -/
  | enc
  /-- 2: the first payload command was `DECRYPT`. -/
  | dec
  deriving DecidableEq, Repr

/-- `ERR`: how a command ended (60_exceptions.md R190). -/
inductive ErrCode where
  /-- 0: success, a `VERIFY` whose `MATCH` is 0 included. -/
  | none
  /-- 1: the word matches no row of the opcode map (R191). -/
  | illegalCommand
  /-- 2: the instance is void, or the command is not legal now (R192). -/
  | protocolViolation
  /-- 3: `CONSTRUCT` with `KLEN != KEY_LEN` (R193). -/
  | invalidKeyLength
  /-- 4: `CONSTRUCT` with `NLEN != NONCE_LEN` (R194). -/
  | invalidNonceLength
  /-- 5: `VERIFY` with `LEN != TAG_LEN` (R195). -/
  | invalidTagLength
  deriving DecidableEq, Repr

/-- A block accumulator of `width` bytes (40_accumulator.md R100): a buffer and a write cursor, `0 <= pos <= width`. -/
structure Acc (width : Nat) where
  buf : Vector Byte width
  pos : Nat
  deriving DecidableEq, Repr

/-- The accumulator with all of its buffer zero and its cursor at 0 (R35, 40_accumulator.md R103). -/
def Acc.empty (width : Nat) : Acc width := { buf := Vector.replicate width 0#8, pos := 0 }

/-- The complete state of one `CORE` under the configuration `c`: the tuple of R20. -/
structure Engine (c : Cfg) where
  /-- `S`, the permutation state (R21, R22). -/
  S : c.Perm
  /-- `K`, the key register (R24). -/
  K : c.Key
  /-- `PHASE` (R25). -/
  phase : Phase
  /-- `VOID` (R26). -/
  void : Bool
  /-- `DIR` (R27). -/
  dir : Dir
  /-- `ABUF` and `APOS` (R28). -/
  aad : Acc c.AAD_WIDTH
  /-- `PBUF` and `PPOS` (R29). -/
  pay : Acc c.PAY_WIDTH
  deriving DecidableEq, Repr

/-- Every element at its reset value (R35). -/
def Engine.reset (c : Cfg) : Engine c where
  S := Vector.replicate c.N 0#c.W
  K := Vector.replicate c.KEY_LEN 0#8
  phase := .idle
  void := false
  dir := .none
  aad := Acc.empty c.AAD_WIDTH
  pay := Acc.empty c.PAY_WIDTH

/-- What one command does: the state after it, its error code, the `MATCH` bit and the bytes it emits. -/
structure Reply (c : Cfg) where
  engine : Engine c
  err : ErrCode
  matched : Bool
  dout : List Byte
  deriving DecidableEq, Repr

/-- The response of one command with its output bytes (30_encoding.md R76). `OUTLEN` is the length of `dout`. -/
structure Response where
  err : ErrCode
  void : Bool
  phase : Phase
  matched : Bool
  dir : Dir
  dout : List Byte
  deriving DecidableEq, Repr

/-- A command as the host presents it: the command word and `DIN` (30_encoding.md R70). -/
structure Transaction where
  cmd : CmdWord
  din : List Byte
  deriving DecidableEq, Repr

/-- What the host can do to the block: present a command, or reset it (70_reset_and_hazards.md R230, R237). -/
inductive HostEvent where
  | command (t : Transaction)
  | reset
  deriving DecidableEq, Repr

/-- The state of the model: the tuple of R20 in `engine`, and beside it the command port, which is the model's own
(log entry 3): the input bytes of the command being executed, what the host has still to do, and the responses given. -/
structure State where
  /-- The architectural state (R20). -/
  engine : Engine Config.cfg
  /-- `DIN` of the command being executed (20_memory.md R51); empty between commands. -/
  din : List Byte
  /-- The host's events not yet taken, oldest first (20_memory.md R61). -/
  input : List HostEvent
  /-- The responses given so far, oldest first: the observation of the run (70_reset_and_hazards.md R244). -/
  output : List Response
  deriving DecidableEq, Repr

/-- Nothing stops `CORE`: every error the spec knows is reported in the response of the command, which is a next state
(60_exceptions.md R190, R196). So no meaning raises a fault, and the type has no constructor (log entry 19); safe. -/
inductive Fault where
  deriving DecidableEq, Repr

/-- Why the model gives a transaction no meaning. -/
inductive Refusal where
  /-- Raised by the refused arms of `exec` alone, for an instruction without a meaning; safe. -/
  | notModelled (mnemonic : String)
  /-- Raised by every instruction when `DIN` has not the length its command word declares: "the model refuses such a
  transaction" (20_memory.md R60, 93_implementation_defined.md U1; log entry 5); safe. -/
  | dinLengthMismatch
  deriving DecidableEq, Repr

/-- The machine right after reset, with no event pending and no response given (R35, log entry 3). -/
def State.reset : State where
  engine := Engine.reset Config.cfg
  din := []
  input := []
  output := []

end Sys2Proof.Machine
end

