-- ==== Sys2Proof/Machine/Accumulator.lean ====
section
/-! DEFINITION. The block accumulator (spec/40_accumulator.md R100 to R103). -/

namespace Sys2Proof.Machine

/-- A block callback (R100, 00_scope.md R12): from a full block and the permutation state, the new state and the bytes it
emits. -/
abbrev Callback (c : Cfg) := List Byte → c.Perm → c.Perm × List Byte

/-- What `Feed` updates: the accumulator, the permutation state its callback works on, and the bytes emitted so far. -/
structure Feeding (c : Cfg) (width : Nat) where
  acc : Acc width
  S : c.Perm
  out : List Byte
  deriving DecidableEq, Repr

/-- Store one byte at the cursor and advance it (R102). -/
def Acc.push {width : Nat} (a : Acc width) (b : Byte) : Acc width :=
  { buf := a.buf.setIfInBounds a.pos b, pos := a.pos + 1 }

/-- The meaningful content `buf[0..pos)` (10_state.md R28). -/
def Acc.content {width : Nat} (a : Acc width) : List Byte := a.buf.toList.take a.pos

/-- "a full block is waiting": when `pos = width` the block is handed to the callback as an ordinary one and the cursor
goes to 0. `Feed` does so before it stores a byte (R102), a flush before it treats the last block (R103). -/
def handOver {c : Cfg} {width : Nat} (cb : Callback c) (f : Feeding c width) : Feeding c width :=
  if f.acc.pos = width then
    { acc := { f.acc with pos := 0 }, S := (cb f.acc.buf.toList f.S).1, out := f.out ++ (cb f.acc.buf.toList f.S).2 }
  else f

/-- One byte of `Feed`: hand over a waiting full block, then store the byte. -/
def feedByte {c : Cfg} {width : Nat} (cb : Callback c) (f : Feeding c width) (b : Byte) : Feeding c width :=
  { handOver cb f with acc := (handOver cb f).acc.push b }

/-- `Feed(acc, data, cb)` (R102), a byte at a time; the spec's loop stores a range of bytes at a time, which is the same
(R105; Laws/Accumulator.lean proves the loop's equation; log entry 8). -/
def feed {c : Cfg} {width : Nat} (cb : Callback c) (data : List Byte) (f : Feeding c width) : Feeding c width :=
  data.foldl (feedByte cb) f

end Sys2Proof.Machine
end

