-- ==== Sys2Proof/Machine/Bytes.lean ====
section
/-! DEFINITION. Byte strings and state words (spec/20_memory.md R52 to R55, spec/00_scope.md R10). -/

namespace Sys2Proof.Machine

/-- `zeros(n)` (R10). -/
def zeros (n : Nat) : List Byte := List.replicate n 0#8

/-- Bytewise XOR of two byte strings of equal length (R10). -/
def xorStrings (a b : List Byte) : List Byte := List.zipWith (· ^^^ ·) a b

/-- The `n` bytes of `d` from index `start` on, `d[start..start+n)` (R10). -/
def takeBytes (d : List Byte) (start n : Nat) : Vector Byte n := vec fun i => d.getD (start + i.val) 0#8

/-- `d[0] ‖ d[1] ‖ ...` in `W` bits, the first byte the most significant (R9, R52). -/
def concatBytes (W : Nat) (d : List Byte) : BitVec W := d.foldl (fun w b => (w <<< 8) ||| b.setWidth W) 0#W

/-- `LoadWord(d)` for a string of `B` bytes (R52). -/
def loadWord (c : Cfg) (d : List Byte) : BitVec c.W :=
  match c.BYTE_ORDER with
  | .be => concatBytes c.W d
  | .le => concatBytes c.W d.reverse

/-- `StoreWord(w)`, `B` bytes (R52): byte `j` is `w[W-1-8j : W-8-8j]` or `w[8j+7 : 8j]`. -/
def storeWord (c : Cfg) (w : BitVec c.W) : List Byte :=
  match c.BYTE_ORDER with
  | .be => (List.range c.B).map fun j => w.extractLsb' (c.W - 8 - 8 * j) 8
  | .le => (List.range c.B).map fun j => w.extractLsb' (8 * j) 8

/-- `RateBytes(S)`: the rate words `S[0] .. S[R_WORDS-1]` as a byte string (R53). -/
def rateBytes (c : Cfg) (S : c.Perm) : List Byte := (S.toList.take c.R_WORDS).flatMap (storeWord c)

/-- The `B`-byte piece `d_i` of `d` extended with zero bytes (R54). -/
def rateBlock (c : Cfg) (d : List Byte) (i : Nat) : List Byte :=
  (List.range c.B).map fun j => d.getD (i * c.B + j) 0#8

/-- `XorBytes(S, d)` for `len(d) <= R_WORDS * B`: `S[i] ^ LoadWord(d_i)` in the rate words, the capacity words as they
are (R54). -/
def xorBytes (c : Cfg) (S : c.Perm) (d : List Byte) : c.Perm :=
  vec fun i => if i.val < c.R_WORDS then S[i] ^^^ loadWord c (rateBlock c d i.val) else S[i]

/-- `XorState(S, M)` (R55). -/
def xorState {W N : Nat} (S M : Words W N) : Words W N := vec fun i => S[i] ^^^ M[i]

end Sys2Proof.Machine
end

