-- ==== Sys2Proof/Machine/Permutation.lean ====
section
/-! DEFINITION. The permutation core (spec/41_permutation.md R120 to R127). -/

namespace Sys2Proof.Machine

/-- `AddConst(S, k)`: the constant is XORed into the word `RC_WORD` (R122). -/
def addConst (c : Cfg) (S : c.Perm) (k : BitVec c.W) : c.Perm := S.set c.RC_WORD.val (S[c.RC_WORD] ^^^ k)

/-- `Round(S, k)`: constant, nonlinear layer, linear layer, in this order (R121, R125). -/
def permRound (c : Cfg) (S : c.Perm) (k : BitVec c.W) : c.Perm := c.Lin (c.Sub (addConst c S k))

/-- `Apply(S, rounds)`: the rounds `0 .. rounds-1`, each with its `RoundConst(rounds, i)` (R126). -/
def applyRounds (c : Cfg) (rounds : Fin (c.ROUNDS_MAX + 1)) (S : c.Perm) : c.Perm :=
  (List.finRange rounds.val).foldl (fun S i => permRound c S (c.RoundConst rounds i)) S

end Sys2Proof.Machine
end

