-- ==== Sys2Proof/Machine/Duplex.lean ====
section
/-! DEFINITION. The block transforms, the flushes, the tag and the comparator (spec/42_duplex_commands.md R140 to R147). -/

namespace Sys2Proof.Machine

/-- `Pad(d, width)` for `len(d) < width`: the data, the marker, zeros to the block width (R140). -/
def pad (c : Cfg) (d : List Byte) (width : Nat) : List Byte := d ++ [c.PAD_MARKER] ++ zeros (width - d.length - 1)

/-- `AbsorbBlock(blk)`, the AAD callback (R141). -/
def absorbBlock (c : Cfg) (blk : List Byte) (S : c.Perm) : c.Perm × List Byte :=
  (applyRounds c c.ROUNDS_BLOCK (xorBytes c S blk), [])

/-- `EncBlock(pt)`, the payload callback when `DIR = ENC`: the new rate content is the ciphertext (R142). -/
def encBlock (c : Cfg) (pt : List Byte) (S : c.Perm) : c.Perm × List Byte :=
  let S1 := xorBytes c S pt
  (applyRounds c c.ROUNDS_BLOCK S1, (rateBytes c S1).take c.PAY_WIDTH)

/-- `DecBlock(ct)`, the payload callback when `DIR = DEC` (R143). -/
def decBlock (c : Cfg) (ct : List Byte) (S : c.Perm) : c.Perm × List Byte :=
  let pt := xorStrings ((rateBytes c S).take c.PAY_WIDTH) ct
  (applyRounds c c.ROUNDS_BLOCK (xorBytes c S pt), pt)

/-- The payload callback of a direction; with `NONE` the flush acts as for `ENC` (R145). -/
def payBlock (c : Cfg) : Dir → Callback c
  | .dec => decBlock c
  | .enc => encBlock c
  | .none => encBlock c

/-- `FlushAAD` (R144): a deferred full block as an ordinary one, the padded last block, `DS_AAD` as the last act. -/
def flushAad (c : Cfg) (e : Engine c) : Engine c :=
  let f := handOver (absorbBlock c) { acc := e.aad, S := e.S, out := [] }
  let S1 :=
    if c.AAD_EMPTY_SKIPS_PAD && decide (e.aad.pos = 0) then f.S
    else applyRounds c c.ROUNDS_BLOCK (xorBytes c f.S (pad c f.acc.content c.AAD_WIDTH))
  { e with S := xorState S1 c.DS_AAD, aad := Acc.empty c.AAD_WIDTH }

/-- The padded last payload block (R145): from the direction, the last `l < PAY_WIDTH` bytes and the state, the state
with `Pad(plaintext)` XORed in and the `l` bytes emitted. -/
def lastBlock (c : Cfg) (d : Dir) (data : List Byte) (S : c.Perm) : c.Perm × List Byte :=
  match d with
  | .dec =>
    let pt := xorStrings ((rateBytes c S).take data.length) data
    (xorBytes c S (pad c pt c.PAY_WIDTH), pt)
  | .enc | .none =>
    let S1 := xorBytes c S (pad c data c.PAY_WIDTH)
    (S1, (rateBytes c S1).take data.length)

/-- `FlushPAY` (R145): a deferred full block as an ordinary one, the padded last block, the rounds if
`PAY_LAST_PERMUTES`, `DS_PAY` as the last act; with the bytes emitted. -/
def flushPay (c : Cfg) (e : Engine c) : Engine c × List Byte :=
  let f := handOver (payBlock c e.dir) { acc := e.pay, S := e.S, out := [] }
  let last := lastBlock c e.dir f.acc.content f.S
  let S1 := if c.PAY_LAST_PERMUTES then applyRounds c c.ROUNDS_BLOCK last.1 else last.1
  ({ e with S := xorState S1 c.DS_PAY, pay := Acc.empty c.PAY_WIDTH }, f.out ++ last.2)

/-- The state in which `TagGen` leaves `S` (R146). -/
def tagState (c : Cfg) (e : Engine c) : c.Perm := applyRounds c c.ROUNDS_FINAL (xorState e.S (c.KeyMaskFinal e.K))

/-- The tag `TagGen` returns: `TagDerive(S, K)` of that state (R146). -/
def tagOf (c : Cfg) (e : Engine c) : Vector Byte c.TAG_LEN := c.TagDerive (tagState c e) e.K

/-- `CtEq(a, b)` for strings of equal length: the OR of all bytewise differences, over every index, compared once with
zero (R147). -/
def ctEq (a b : List Byte) : Bool :=
  (xorStrings a b).foldl (fun diff x => diff ||| x) 0#8 == 0#8

end Sys2Proof.Machine
end

