-- ==== Sys2Proof/WellFormed.lean ====
section
/-! DEFINITION. Which instructions a command word can carry: the ranges of the length fields (spec/30_encoding.md R71, R72). -/

namespace Sys2Proof

/-- Every length fits its field: KLEN and NLEN 8 bits each (R71), LEN 16 bits (R72). -/
def Instr.wellFormed : Instr → Bool
  | .construct klen nlen => decide (klen < 256) && decide (nlen < 256)
  | .ingestAad len => decide (len < 65536)
  | .encrypt len => decide (len < 65536)
  | .decrypt len => decide (len < 65536)
  | .finish => true
  | .authenticate => true
  | .verify len => decide (len < 65536)
  | .release => true

/-- `Instr.wellFormed` as a proposition. -/
abbrev Instr.WellFormed (i : Instr) : Prop := i.wellFormed = true

end Sys2Proof
end

