-- ==== Sys2Proof/Decode.lean ====
section
/-! DEFINITION. The decoder of command words (spec/30_encoding.md R77), total and rejecting by name, the encoder
(R70 to R74), and the opcode map as data (R74). -/

namespace Sys2Proof

/-- Why a word is illegal (R75). The machine raises `IllegalCommand` for each of them alike (60_exceptions.md R191). -/
inductive DecodeError where
  /-- Bits 23:16 are not zero. -/
  | reservedBits
  /-- The opcode is 0x00 or lies in 0x09..0xFF. -/
  | unknownOpcode
  /-- A format Z word whose bits 15:0 are not zero. -/
  | operandBits
  deriving DecidableEq, Repr

/-- `OP = CMD[31:24]` (R70). -/
def opField (w : CmdWord) : Nat := (w.extractLsb' 24 8).toNat

/-- `CMD[23:16]`, reserved in every format (R70). -/
def reservedField (w : CmdWord) : Nat := (w.extractLsb' 16 8).toNat

/-- `KLEN = CMD[15:8]` (R71). -/
def klenField (w : CmdWord) : Nat := (w.extractLsb' 8 8).toNat

/-- `NLEN = CMD[7:0]` (R71). -/
def nlenField (w : CmdWord) : Nat := (w.extractLsb' 0 8).toNat

/-- `LEN = CMD[15:0]` (R72). -/
def lenField (w : CmdWord) : Nat := (w.extractLsb' 0 16).toNat

/-- A format Z command: all of `CMD[23:0]` must be zero (R73). -/
def decodeZ (w : CmdWord) (i : Instr) : Except DecodeError Instr :=
  if lenField w = 0 then .ok i else .error .operandBits

/-- `Decode(CMD)` of R77. It reads no state. -/
def decode (w : CmdWord) : Except DecodeError Instr :=
  if reservedField w ≠ 0 then .error .reservedBits
  else match opField w with
    | 0x01 => .ok (.construct (klenField w) (nlenField w))
    | 0x02 => .ok (.ingestAad (lenField w))
    | 0x03 => .ok (.encrypt (lenField w))
    | 0x04 => .ok (.decrypt (lenField w))
    | 0x05 => decodeZ w .finish
    | 0x06 => decodeZ w .authenticate
    | 0x07 => .ok (.verify (lenField w))
    | 0x08 => decodeZ w .release
    | _ => .error .unknownOpcode

/-- A format K word: OP, zero, KLEN, NLEN (R70, R71). -/
def encodeK (op : Byte) (klen nlen : Nat) : CmdWord := op ++ 0#8 ++ BitVec.ofNat 8 klen ++ BitVec.ofNat 8 nlen

/-- A format L word: OP, zero, LEN (R70, R72). -/
def encodeL (op : Byte) (len : Nat) : CmdWord := op ++ 0#8 ++ BitVec.ofNat 16 len

/-- A format Z word: OP, zeros (R70, R73). -/
def encodeZ (op : Byte) : CmdWord := op ++ 0#24

/-- The command word of a well-formed instruction (R74). -/
def encode : Instr → CmdWord
  | .construct klen nlen => encodeK 0x01#8 klen nlen
  | .ingestAad len => encodeL 0x02#8 len
  | .encrypt len => encodeL 0x03#8 len
  | .decrypt len => encodeL 0x04#8 len
  | .finish => encodeZ 0x05#8
  | .authenticate => encodeZ 0x06#8
  | .verify len => encodeL 0x07#8 len
  | .release => encodeZ 0x08#8

/-- A row of the opcode map: a word `CMD` selects it when `CMD & mask = match` (R74). -/
structure OpcodeRow where
  mnemonic : String
  mask : CmdWord
  pattern : CmdWord
  deriving DecidableEq, Repr

/-- The word selects the row (R74). -/
def OpcodeRow.selects (r : OpcodeRow) (w : CmdWord) : Bool := decide (w &&& r.mask = r.pattern)

/-- The opcode map of R74, row for row. -/
def opcodeMap : List OpcodeRow :=
  [ ⟨"CONSTRUCT", 0xFFFF0000#32, 0x01000000#32⟩,
    ⟨"INGEST_AAD", 0xFFFF0000#32, 0x02000000#32⟩,
    ⟨"ENCRYPT", 0xFFFF0000#32, 0x03000000#32⟩,
    ⟨"DECRYPT", 0xFFFF0000#32, 0x04000000#32⟩,
    ⟨"FINISH", 0xFFFFFFFF#32, 0x05000000#32⟩,
    ⟨"AUTHENTICATE", 0xFFFFFFFF#32, 0x06000000#32⟩,
    ⟨"VERIFY", 0xFFFF0000#32, 0x07000000#32⟩,
    ⟨"RELEASE", 0xFFFFFFFF#32, 0x08000000#32⟩ ]

/-- The mnemonic of an instruction (R74, R80). -/
def Instr.mnemonic : Instr → String
  | .construct _ _ => "CONSTRUCT"
  | .ingestAad _ => "INGEST_AAD"
  | .encrypt _ => "ENCRYPT"
  | .decrypt _ => "DECRYPT"
  | .finish => "FINISH"
  | .authenticate => "AUTHENTICATE"
  | .verify _ => "VERIFY"
  | .release => "RELEASE"

/-- The command word whose bits are `w`, of which the opcode table gives the low `nbits`; the bits above are 0. The
command word is one 32-bit value (R70), numbered as the table numbers it. -/
def tableWord (nbits w : Nat) : CmdWord := BitVec.ofNat 32 (w % 2 ^ nbits)

/-- The instruction the decoder reads from such a word; `none` where it refuses. -/
def decodeTableWord (nbits w : Nat) : Option Instr :=
  match decode (tableWord nbits w) with
  | .ok i => some i
  | .error _ => none

end Sys2Proof
end

