-- ==== Sys2Proof/Machine/Flags.lean ====
section
/-! DEFINITION. The codes of `PHASE`, `DIR` and `ERR`, the table of legal commands per phase, and the packed response word
(spec/10_state.md R25, R27, spec/30_encoding.md R76, spec/42_duplex_commands.md R148, spec/60_exceptions.md R190). -/

namespace Sys2Proof.Machine

/-- The 3-bit value of `PHASE` (R25). -/
def phaseCode : Phase → BitVec 3
  | .idle => 0
  | .absorbingAad => 1
  | .absorbingPayload => 2
  | .finalized => 3
  | .tagged => 4

/-- The 2-bit value of `DIR` (R27). -/
def dirCode : Dir → BitVec 2
  | .none => 0
  | .enc => 1
  | .dec => 2

/-- The 4-bit value of `ERR` (R190). -/
def errCode : ErrCode → BitVec 4
  | .none => 0
  | .illegalCommand => 1
  | .protocolViolation => 2
  | .invalidKeyLength => 3
  | .invalidNonceLength => 4
  | .invalidTagLength => 5

/-- The table of R148 with `VOID = 0`: may the command run in this phase, with this direction latched? -/
def phaseLegal : Instr → Phase → Dir → Bool
  | .construct _ _, .idle, _ => true
  | .ingestAad _, .absorbingAad, _ => true
  | .encrypt _, .absorbingAad, _ => true
  | .encrypt _, .absorbingPayload, .enc => true
  | .decrypt _, .absorbingAad, _ => true
  | .decrypt _, .absorbingPayload, .dec => true
  | .finish, .absorbingAad, _ => true
  | .finish, .absorbingPayload, _ => true
  | .authenticate, .finalized, _ => true
  | .verify _, .finalized, _ => true
  | .release, _, _ => true
  | _, _, _ => false

/-- Checks (2) to (4) of the common prologue (R149): `RELEASE` always, every other command with `VOID = 0` and as the table says. -/
def permitted {c : Cfg} (i : Instr) (e : Engine c) : Bool :=
  match i with
  | .release => true
  | _ => !e.void && phaseLegal i e.phase e.dir

/-- `OUTLEN` (R76). -/
def Response.outLen (r : Response) : Nat := r.dout.length

/-- The packed response word `RESP` (R76): `ERR[31:28] VOID[27] PHASE[26:24] MATCH[23] DIR[22:21] 0[20:17] OUTLEN[16:0]`. -/
def Response.word (r : Response) : CmdWord :=
  errCode r.err ++ BitVec.ofBool r.void ++ phaseCode r.phase ++ BitVec.ofBool r.matched ++ dirCode r.dir ++ 0#4
    ++ BitVec.ofNat 17 r.outLen

end Sys2Proof.Machine
end

