-- ==== Sys2Proof/Machine/Operands.lean ====
section
/-! DEFINITION. The operand forms: how many input bytes a command word declares, and where the key, the nonce and the
candidate tag lie in `DIN` (spec/30_encoding.md R70 to R73, spec/20_memory.md R51, R60). -/

namespace Sys2Proof.Machine

/-- The number of input bytes the command declares (R60, R70): `KLEN + NLEN`, `LEN` or 0. -/
def dinLength : Instr → Nat
  | .construct klen nlen => klen + nlen
  | .ingestAad len => len
  | .encrypt len => len
  | .decrypt len => len
  | .finish => 0
  | .authenticate => 0
  | .verify len => len
  | .release => 0

/-- The key `DIN[0..KLEN)` of a `CONSTRUCT` whose `KLEN` is `KEY_LEN` (R71). -/
def keyOperand (c : Cfg) (din : List Byte) : c.Key := takeBytes din 0 c.KEY_LEN

/-- The nonce `DIN[KLEN..KLEN+NLEN)` of a `CONSTRUCT` whose `NLEN` is `NONCE_LEN` (R71). -/
def nonceOperand (c : Cfg) (klen : Nat) (din : List Byte) : c.Nonce := takeBytes din klen c.NONCE_LEN

/-- The transaction of the command word that the opcode table's `nbits` bits `w` give, with as many zero input bytes as
the word declares (R60); an illegal word comes with none (log entry 10). -/
def tableTransaction (nbits w : Nat) : Transaction where
  cmd := tableWord nbits w
  din := match decode (tableWord nbits w) with
    | .ok i => zeros (dinLength i)
    | .error _ => []

end Sys2Proof.Machine
end

