-- ==== Sys2Proof/Machine/Ops.lean ====
section
/-! DEFINITION. The shared operations of every command: error entry (spec/60_exceptions.md R196), its return and the reset
(spec/42_duplex_commands.md R157, spec/70_reset_and_hazards.md R230), the common prologue (42 R149), taking a host event and
answering with a response (spec/30_encoding.md R76). -/

namespace Sys2Proof.Machine

/-- Error entry, `raise <Error>` (60_exceptions.md R196, R197): nothing changes but `VOID`, which is set when an engine
instance exists; no output. -/
def raise {c : Cfg} (err : ErrCode) (e : Engine c) : Reply c where
  engine := { e with void := e.void || decide (e.phase ≠ .idle) }
  err := err
  matched := false
  dout := []

/-- A command that ended without an error and without a `MATCH`. -/
def succeed {c : Cfg} (e : Engine c) (dout : List Byte) : Reply c where
  engine := e
  err := .none
  matched := false
  dout := dout

/-- The effect of `RELEASE` (R157), which is also the effect of the reset event (70_reset_and_hazards.md R230) and the only
return from `VOID = 1` (60_exceptions.md R199). -/
def released {c : Cfg} (e : Engine c) : Engine c :=
  { e with
    S := Vector.replicate c.N 0#c.W
    K := Vector.replicate c.KEY_LEN 0#8
    aad := { buf := Vector.replicate c.AAD_WIDTH 0#8, pos := 0 }
    pay := { buf := Vector.replicate c.PAY_WIDTH 0#8, pos := 0 }
    dir := .none
    void := false
    phase := .idle }

/-- The common prologue (R149): a command that is not permitted ends in `ProtocolViolation`, any other goes on. -/
def guarded {c : Cfg} (i : Instr) (e : Engine c) (body : Reply c) : Reply c :=
  if permitted i e then body else raise .protocolViolation e

/-- The response of a command: the state fields are copies of the state after it (30_encoding.md R76). -/
def Reply.response {c : Cfg} (r : Reply c) : Response where
  err := r.err
  void := r.engine.void
  phase := r.engine.phase
  matched := r.matched
  dir := r.engine.dir
  dout := r.dout

/-- The end of a command: its state, one more response, and its `DIN` consumed (60_exceptions.md R196 (c)). -/
def State.complete (s : State) (r : Reply Config.cfg) : State :=
  { s with engine := r.engine, din := [], output := s.output ++ [r.response] }

/-- Execute a command on the input bytes of the state. A transaction whose `DIN` has another length than the command
declares has no meaning (20_memory.md R60; log entry 5). -/
def transact (i : Instr) (body : List Byte → Engine Config.cfg → Reply Config.cfg) (s : State) :
    Host.Outcome State Fault Refusal :=
  if s.din.length = dinLength i then .next (s.complete (body s.din s.engine)) else .refused .dinLengthMismatch

/-- An illegal command word (60_exceptions.md R191): error entry, whatever the state. -/
def illegalCommand (s : State) : State := s.complete (raise .illegalCommand s.engine)

/-- Take the next event of the host. -/
def nextEvent (s : State) : Option (HostEvent × List HostEvent) :=
  match s.input with
  | [] => none
  | ev :: rest => some (ev, rest)

/-- The command is accepted: it leaves the host's list, its input bytes are at hand. -/
def State.accept (s : State) (t : Transaction) (rest : List HostEvent) : State := { s with din := t.din, input := rest }

/-- The reset event (70_reset_and_hazards.md R230): the effect of `RELEASE`, and no response. -/
def State.resetEvent (s : State) (rest : List HostEvent) : State := { s with engine := released s.engine, input := rest }

end Sys2Proof.Machine
end

