-- ==== Sys2Proof/Machine/Lifetime.lean ====
section
/-! DEFINITION. The commands that begin and end an engine instance: `CONSTRUCT` and `RELEASE` (spec/42_duplex_commands.md R150, R157). -/

namespace Sys2Proof.Machine

/-- The state in which a successful `CONSTRUCT` leaves `S` (R150). -/
def constructedState (c : Cfg) (key : c.Key) (nonce : c.Nonce) : c.Perm :=
  xorState (applyRounds c c.ROUNDS_INIT (c.InitState key nonce)) (c.KeyMaskInit key)

/-- `CONSTRUCT(KLEN, NLEN, DIN)` (R150). -/
def constructCommand (c : Cfg) (klen nlen : Nat) (din : List Byte) (e : Engine c) : Reply c :=
  guarded (.construct klen nlen) e <|
    if klen ≠ c.KEY_LEN then raise .invalidKeyLength e
    else if nlen ≠ c.NONCE_LEN then raise .invalidNonceLength e
    else
      succeed
        { e with
          S := constructedState c (keyOperand c din) (nonceOperand c klen din)
          K := keyOperand c din
          dir := .none
          aad := { e.aad with pos := 0 }
          pay := { e.pay with pos := 0 }
          phase := .absorbingAad }
        []

/-- `RELEASE` (R157): legal in every phase, cannot fail. -/
def releaseCommand (c : Cfg) (e : Engine c) : Reply c :=
  guarded .release e (succeed (released e) [])

/-- The meaning of CONSTRUCT. -/
def execConstruct (klen nlen : Nat) (s : State) : Host.Outcome State Fault Refusal :=
  transact (.construct klen nlen) (constructCommand Config.cfg klen nlen) s

/-- The meaning of RELEASE. -/
def execRelease (s : State) : Host.Outcome State Fault Refusal :=
  transact .release (fun _ e => releaseCommand Config.cfg e) s

end Sys2Proof.Machine
end

