-- ==== Sys2Proof/Machine/Stream.lean ====
section
/-! DEFINITION. The commands that move the two streams: `INGEST_AAD`, `ENCRYPT`, `DECRYPT`, `FINISH`
(spec/42_duplex_commands.md R151 to R154). -/

namespace Sys2Proof.Machine

/-- `Feed((ABUF, APOS, AAD_WIDTH), data, AbsorbBlock)` (R151). -/
def feedAad (c : Cfg) (data : List Byte) (e : Engine c) : Engine c :=
  let f := feed (absorbBlock c) data { acc := e.aad, S := e.S, out := [] }
  { e with S := f.S, aad := f.acc }

/-- `Feed((PBUF, PPOS, PAY_WIDTH), data, cb)` with the callback of the direction, and the bytes it emits (R152, R153). -/
def feedPay (c : Cfg) (d : Dir) (data : List Byte) (e : Engine c) : Engine c × List Byte :=
  let f := feed (payBlock c d) data { acc := e.pay, S := e.S, out := [] }
  ({ e with S := f.S, pay := f.acc }, f.out)

/-- The first payload command flushes the AAD, enters `ABSORBING_PAYLOAD` and latches the direction, even when its
length is 0; a later one does nothing of that (R152). -/
def enterPayload (c : Cfg) (d : Dir) (e : Engine c) : Engine c :=
  if e.phase = .absorbingAad then { flushAad c e with phase := .absorbingPayload, dir := d } else e

/-- What `ENCRYPT` and `DECRYPT` do once permitted (R152, R153). -/
def payload (c : Cfg) (d : Dir) (din : List Byte) (e : Engine c) : Reply c :=
  let r := feedPay c d din (enterPayload c d e)
  succeed r.1 r.2

/-- `INGEST_AAD(LEN, DIN)` (R151). -/
def ingestAadCommand (c : Cfg) (len : Nat) (din : List Byte) (e : Engine c) : Reply c :=
  guarded (.ingestAad len) e (succeed (feedAad c din e) [])

/-- `ENCRYPT(LEN, DIN)` (R152). -/
def encryptCommand (c : Cfg) (len : Nat) (din : List Byte) (e : Engine c) : Reply c :=
  guarded (.encrypt len) e (payload c .enc din e)

/-- `DECRYPT(LEN, DIN)` (R153). -/
def decryptCommand (c : Cfg) (len : Nat) (din : List Byte) (e : Engine c) : Reply c :=
  guarded (.decrypt len) e (payload c .dec din e)

/-- `FINISH` (R154): in `ABSORBING_AAD` the AAD flush comes first and `DIR` stays `NONE`. -/
def finishCommand (c : Cfg) (e : Engine c) : Reply c :=
  guarded .finish e <|
    let r := flushPay c (if e.phase = .absorbingAad then flushAad c e else e)
    succeed { r.1 with phase := .finalized } r.2

/-- The meaning of INGEST_AAD. -/
def execIngestAad (len : Nat) (s : State) : Host.Outcome State Fault Refusal :=
  transact (.ingestAad len) (ingestAadCommand Config.cfg len) s

/-- The meaning of ENCRYPT. -/
def execEncrypt (len : Nat) (s : State) : Host.Outcome State Fault Refusal :=
  transact (.encrypt len) (encryptCommand Config.cfg len) s

/-- The meaning of DECRYPT. -/
def execDecrypt (len : Nat) (s : State) : Host.Outcome State Fault Refusal :=
  transact (.decrypt len) (decryptCommand Config.cfg len) s

/-- The meaning of FINISH. -/
def execFinish (s : State) : Host.Outcome State Fault Refusal :=
  transact .finish (fun _ e => finishCommand Config.cfg e) s

end Sys2Proof.Machine
end

