-- ==== Sys2Proof/Machine/Tag.lean ====
section
/-! DEFINITION. The commands that produce or check the tag: `AUTHENTICATE` and `VERIFY` (spec/42_duplex_commands.md R155, R156). -/

namespace Sys2Proof.Machine

/-- `TagGen` has run, the key has had its last use and is cleared, the instance is consumed (R146, R155, R156). -/
def tagged (c : Cfg) (e : Engine c) : Engine c :=
  { e with S := tagState c e, K := Vector.replicate c.KEY_LEN 0#8, phase := .tagged }

/-- `AUTHENTICATE` (R155): all `TAG_LEN` bytes are emitted. -/
def authenticateCommand (c : Cfg) (e : Engine c) : Reply c :=
  guarded .authenticate e (succeed (tagged c e) (tagOf c e).toList)

/-- `VERIFY(LEN, DIN)` (R156): `MATCH` says whether the candidate equals the tag; no byte of the tag is emitted. -/
def verifyCommand (c : Cfg) (len : Nat) (din : List Byte) (e : Engine c) : Reply c :=
  guarded (.verify len) e <|
    if len ≠ c.TAG_LEN then raise .invalidTagLength e
    else { succeed (tagged c e) [] with matched := ctEq (tagOf c e).toList din }

/-- The meaning of AUTHENTICATE. -/
def execAuthenticate (s : State) : Host.Outcome State Fault Refusal :=
  transact .authenticate (fun _ e => authenticateCommand Config.cfg e) s

/-- The meaning of VERIFY. -/
def execVerify (len : Nat) (s : State) : Host.Outcome State Fault Refusal :=
  transact (.verify len) (verifyCommand Config.cfg len) s

end Sys2Proof.Machine
end

