-- ==== Sys2Proof/Machine/Dispatch.lean ====
section
/-! DEFINITION. The meaning of every instruction, one arm each (spec/30_encoding.md R74). -/

namespace Sys2Proof.Machine

def exec (i : Instr) (s : State) : Host.Outcome State Fault Refusal :=
  match i with
  | .construct klen nlen => Sys2Proof.Machine.execConstruct klen nlen s
  | .ingestAad len => Sys2Proof.Machine.execIngestAad len s
  | .encrypt len => Sys2Proof.Machine.execEncrypt len s
  | .decrypt len => Sys2Proof.Machine.execDecrypt len s
  | .finish => Sys2Proof.Machine.execFinish s
  | .authenticate => Sys2Proof.Machine.execAuthenticate s
  | .verify len => Sys2Proof.Machine.execVerify len s
  | .release => Sys2Proof.Machine.execRelease s

end Sys2Proof.Machine
end

