-- ==== Sys2Proof/Machine/Step.lean ====
section
/-! DEFINITION. One step of the machine: it takes the next event of the host (spec/00_scope.md R5, spec/20_memory.md R61). -/

namespace Sys2Proof.Machine

/-- One step: with no event the block waits (70_reset_and_hazards.md R232; log entry 4); a reset takes effect (R230); a
command is decoded and executed, an illegal word raises `IllegalCommand` (42_duplex_commands.md R149). -/
def step (s : State) : Host.Outcome State Fault Refusal :=
  match nextEvent s with
  | none => .next s
  | some (.reset, rest) => .next (s.resetEvent rest)
  | some (.command t, rest) =>
    match decode t.cmd with
    | .ok i => exec i (s.accept t rest)
    | .error _ => .next (illegalCommand (s.accept t rest))

/-- The state with the opcode table's instruction presented as the host's next command (log entry 10). -/
def State.withFetchWord (s : State) (nbits w : Nat) : State :=
  { s with input := .command (tableTransaction nbits w) :: s.input }

end Sys2Proof.Machine
end

