-- ==== Sys2Proof/Machine/Pseudo.lean ====
section
/-! DEFINITION. What stands on the host's side of the command port: the pseudo-instructions `SEAL` and `OPEN` as lists of host
events with their results, and the assembler lines (spec/30_encoding.md R80 to R82). Nothing here is executed by `CORE`. -/

namespace Sys2Proof.Machine

/-- A byte string cut into pieces of at most `n` bytes, in order; no piece for the empty string. `fuel` is its length. -/
def pieces (n : Nat) : Nat → List Byte → List (List Byte)
  | 0, _ => []
  | fuel + 1, d => if d.isEmpty then [] else d.take n :: pieces n fuel (d.drop n)

/-- A command with its input bytes, as the host presents it (R70). -/
def present (i : Instr) (din : List Byte) : HostEvent := .command { cmd := encode i, din := din }

/-- A stream as chunks of at most 65535 bytes, omitted when empty (R81; where the pieces are cut, and that `OPEN` does the same
with its payload, is the model's choice, log entry 18). -/
def presentStream (mk : Nat → Instr) (d : List Byte) : List HostEvent :=
  (pieces 65535 d.length d).map fun p => present (mk p.length) p

/-- The expansion of `SEAL key, nonce, aad, pt` (R81). -/
def sealEvents (key nonce aad pt : List Byte) : List HostEvent :=
  [present (.construct key.length nonce.length) (key ++ nonce)] ++ presentStream .ingestAad aad
    ++ presentStream .encrypt pt ++ [present .finish [], present .authenticate [], present .release []]

/-- The expansion of `OPEN key, nonce, aad, ct, tag` (R82). Where `ct` is empty the `DECRYPT` is omitted, as R81 omits the
`ENCRYPT` of an empty `pt`: R82 says "as in SEAL" of the associated data only, so this is the model's choice (DESIGN CHOICE, log
entry 18). A `DECRYPT` of no bytes would add one response and latch `DIR` in the responses after it. -/
def openEvents (key nonce aad ct tag : List Byte) : List HostEvent :=
  [present (.construct key.length nonce.length) (key ++ nonce)] ++ presentStream .ingestAad aad
    ++ presentStream .decrypt ct ++ [present .finish [], present (.verify tag.length) tag, present .release []]

/-- The result `(ct, tag)` of `SEAL` from the responses to its commands (R81). -/
def sealResult (responses : List Response) : Option (List Byte × List Byte) :=
  match responses.reverse with
  | _ :: auth :: before => some (before.reverse.flatMap (·.dout), auth.dout)
  | _ => none

/-- The result of `OPEN` from the responses to its commands: the plaintext when `MATCH` is 1, else `none`, which is
`AuthFailure` (R82). -/
def openResult (responses : List Response) : Option (List Byte) :=
  match responses.reverse with
  | _ :: check :: before => if check.matched then some (before.reverse.flatMap (·.dout)) else none
  | _ => none

/-- The sixteen hexadecimal digits. -/
def hexDigits : List Char := ['0', '1', '2', '3', '4', '5', '6', '7', '8', '9', 'a', 'b', 'c', 'd', 'e', 'f']

/-- A byte string in hexadecimal, two digits per byte, first byte first, `-` for the empty string (R80). -/
def hexText (d : List Byte) : List Char :=
  if d.isEmpty then ['-']
  else d.flatMap fun b => [hexDigits.getD (b.toNat / 16) '0', hexDigits.getD (b.toNat % 16) '0']

/-- A command as an assembler line, as characters (R80). -/
def commandLine (i : Instr) (din : List Byte) : List Char :=
  i.mnemonic.toList ++
    match i with
    | .construct klen _ => " key=".toList ++ hexText (din.take klen) ++ " nonce=".toList ++ hexText (din.drop klen)
    | .ingestAad _ | .encrypt _ | .decrypt _ | .verify _ => ' ' :: hexText din
    | .finish | .authenticate | .release => []

/-- The name of an error (60_exceptions.md R190). -/
def errName : ErrCode → String
  | .none => "None"
  | .illegalCommand => "IllegalCommand"
  | .protocolViolation => "ProtocolViolation"
  | .invalidKeyLength => "InvalidKeyLength"
  | .invalidNonceLength => "InvalidNonceLength"
  | .invalidTagLength => "InvalidTagLength"

/-- The name of a phase (10_state.md R25). -/
def phaseName : Phase → String
  | .idle => "IDLE"
  | .absorbingAad => "ABSORBING_AAD"
  | .absorbingPayload => "ABSORBING_PAYLOAD"
  | .finalized => "FINALIZED"
  | .tagged => "TAGGED"

/-- The name of a direction (10_state.md R27). -/
def dirName : Dir → String
  | .none => "NONE"
  | .enc => "ENC"
  | .dec => "DEC"

/-- A one-bit field as a digit. -/
def bitText (b : Bool) : Char := if b then '1' else '0'

/-- A response as a line, as characters (R80). -/
def responseLine (r : Response) : List Char :=
  "-> ERR=".toList ++ (errName r.err).toList ++ " PHASE=".toList ++ (phaseName r.phase).toList ++ " VOID=".toList
    ++ [bitText r.void] ++ " DIR=".toList ++ (dirName r.dir).toList ++ " MATCH=".toList ++ [bitText r.matched]
    ++ " OUT=".toList ++ hexText r.dout

end Sys2Proof.Machine
end

