-- ==== Sys2Proof/Machine/Run.lean ====
section
/-! DEFINITION. What a run of `CORE` is, what it observes, and when it and a message within it are complete
(spec/70_reset_and_hazards.md R244, spec/10_state.md R36; log entry 23). -/

namespace Sys2Proof.Machine

/-- A transaction has exactly as many input bytes as its word declares (20_memory.md R60). An illegal word declares none
and is answered whatever comes with it (log entry 6). -/
def Transaction.wellFormed (t : Transaction) : Bool :=
  match decode t.cmd with
  | .ok i => decide (t.din.length = dinLength i)
  | .error _ => true

/-- A host event is a reset or a well-formed transaction. -/
def HostEvent.wellFormed : HostEvent → Bool
  | .command t => t.wellFormed
  | .reset => true

/-- A run is a finite sequence of commands (R244), each of them a well-formed transaction (20_memory.md R60). -/
def isRun (cmds : List Transaction) : Prop := ∀ t ∈ cmds, t.wellFormed = true

/-- The reset state with the commands of a run still to come: a run is "from the reset state" (R244). -/
def runStart (cmds : List Transaction) : State := { State.reset with input := cmds.map .command }

/-- The states of the next `n` steps, the state before them first; the list ends early where the model stops. -/
def trajectory : Nat → State → List State
  | 0, s => [s]
  | n + 1, s =>
    s :: match step s with
      | .next t => trajectory n t
      | .fault _ => []
      | .refused _ => []

/-- The states of a run: number `k` is the state after its first `k` commands. -/
def runStates (cmds : List Transaction) : List State := trajectory cmds.length (runStart cmds)

/-- What has been observed when the state is reached: the responses with their `DOUT`, in order (R244). -/
def State.observation (s : State) : List Response := s.output

/-- The observation of a run: that of its last state (R244). -/
def runObservation (cmds : List Transaction) : List Response :=
  match (runStates cmds).getLast? with
  | some s => s.observation
  | none => []

/-- The transaction carries a `RELEASE`. -/
def Transaction.isRelease (t : Transaction) : Bool := decide (decode t.cmd = .ok .release)

/-- The transaction carries a `CONSTRUCT`. -/
def Transaction.isConstruct (t : Transaction) : Bool :=
  match decode t.cmd with
  | .ok (.construct _ _) => true
  | _ => false

/-- A run is complete "when its last command is a `RELEASE`" (R244). The empty run is not. -/
def runComplete (cmds : List Transaction) : Prop := isRun cmds ∧ ∃ t, cmds.getLast? = some t ∧ t.isRelease = true

/-- Command number `i` of the run is a successful `CONSTRUCT`: an engine instance, and with it a message, begins (10_state.md
R36). Its response is the last one of the state after it. -/
def instanceBegins (cmds : List Transaction) (i : Nat) : Prop :=
  ∃ (t : Transaction) (s : State) (r : Response),
    cmds[i]? = some t ∧ t.isConstruct = true ∧
    (runStates cmds)[i + 1]? = some s ∧ s.observation.getLast? = some r ∧ r.err = .none

/-- State number `j` of the run belongs to the instance that command number `i` began: no `RELEASE` came between (R36). -/
def withinInstance (cmds : List Transaction) (i j : Nat) : Prop :=
  i < j ∧ ∀ k, i < k → k < j → ∀ t, cmds[k]? = some t → t.isRelease = false

/-- The message of the instance that command number `i` of the run began is complete: the instance "reached `TAGGED` with
`VOID = 0`" in one of its states (R244; log entry 23). -/
def messageComplete (cmds : List Transaction) (i : Nat) : Prop :=
  instanceBegins cmds i ∧
    ∃ (j : Nat) (s : State), withinInstance cmds i j ∧ (runStates cmds)[j]? = some s ∧
      s.engine.phase = .tagged ∧ s.engine.void = false

end Sys2Proof.Machine
end

