-- ==== Sys2Proof/Safety.lean ====
section
/-! DEFINITION. The terms the claims use: the invariants of the state, what it means that a command was answered, agreement of
two states up to unread bytes, and the duties of the host (spec/10_state.md R23 to R31, spec/70_reset_and_hazards.md R233 to
R241). Runs and complete messages are in Machine/Run.lean. -/

namespace Sys2Proof.Machine

/-- The invariants of the architectural state between commands. -/
structure Engine.Inv {c : Cfg} (e : Engine c) : Prop where
  /-- The cursor of the AAD accumulator (10_state.md R28, R30 (a)). -/
  aad_pos : e.aad.pos ≤ c.AAD_WIDTH
  /-- The cursor of the payload accumulator (R29, R30 (a)). -/
  pay_pos : e.pay.pos ≤ c.PAY_WIDTH
  /-- In `IDLE` every element has its reset value, `VOID = 0` among them (R21, R26, R35). -/
  idle : e.phase = .idle → e = Engine.reset c
  /-- The AAD accumulator holds something only in `ABSORBING_AAD` (R28, R29). -/
  aad_empty : e.phase ≠ .absorbingAad → e.aad = Acc.empty c.AAD_WIDTH
  /-- The payload accumulator holds something only in `ABSORBING_PAYLOAD` (R29). -/
  pay_empty : e.phase ≠ .absorbingPayload → e.pay = Acc.empty c.PAY_WIDTH
  /-- The key is gone in `TAGGED` (R24). -/
  key_gone : e.phase = .tagged → e.K = Vector.replicate c.KEY_LEN 0#8
  /-- No direction before the first payload command (R27). -/
  dir_none : e.phase = .absorbingAad → e.dir = .none
  /-- A direction from the first payload command on (R27). -/
  dir_latched : e.phase = .absorbingPayload → e.dir ≠ .none

/-- What holds of every response (30_encoding.md R76): an error comes without output and without `MATCH`, and `OUTLEN` fits. -/
structure Response.Legal (r : Response) : Prop where
  err_dout : r.err ≠ .none → r.dout = []
  err_matched : r.err ≠ .none → r.matched = false
  outLen_le : r.outLen ≤ 65535 + 255

/-- The invariant of the model's state. -/
structure State.Inv (s : State) : Prop where
  engine : s.engine.Inv
  din : s.din = []
  output : ∀ r ∈ s.output, r.Legal

/-- Going from `s` to `t` answered one command with the response `r`: one response more, with copies of the state after
the command, `DIN` consumed, the host's further events untouched (30_encoding.md R76, 60_exceptions.md R196 (c)). -/
structure Answered (s t : State) (r : Response) : Prop where
  output : t.output = s.output ++ [r]
  input : t.input = s.input
  din : t.din = []
  void : r.void = t.engine.void
  phase : r.phase = t.engine.phase
  dir : r.dir = t.engine.dir

/-- The engine after an error (60_exceptions.md R196 (a), (b)): as it was, but void if an instance exists. -/
def Engine.afterError {c : Cfg} (e : Engine c) : Engine c :=
  { e with void := if e.phase = .idle then e.void else true }

/-- Two accumulators hold the same stream bytes: equal cursors, equal content below them (10_state.md R28). -/
structure Acc.Agrees {width : Nat} (a b : Acc width) : Prop where
  pos : a.pos = b.pos
  content : a.content = b.content

/-- Two engines differ at most in buffer bytes at or beyond the cursors, which no rule reads (10_state.md R28, R29; 93 U9). -/
structure Engine.Agrees {c : Cfg} (e f : Engine c) : Prop where
  S : e.S = f.S
  K : e.K = f.K
  phase : e.phase = f.phase
  void : e.void = f.void
  dir : e.dir = f.dir
  aad : e.aad.Agrees f.aad
  pay : e.pay.Agrees f.pay

/-- Every word rotated right by the same amount (41_permutation.md R123, R124). -/
def rotateAll {W N : Nat} (S : Words W N) (n : Nat) : Words W N := vec fun i => S[i].rotateRight n

/-- A callback that works as `cb` and emits one byte per call, so that the output counts the calls (40_accumulator.md R104). -/
def countCalls {c : Cfg} (cb : Callback c) : Callback c := fun blk S => ((cb blk S).1, [0#8])

/-- The number of callbacks a stream of `total` bytes has caused, `ceil(total / width) - 1`, 0 for none (R104). -/
def callsFor (width total : Nat) : Nat := (total + width - 1) / width - 1

/-- Hand the first `k` blocks of `width` bytes of `M` to a callback, in order, from the state and output `p` (R105). -/
def runBlocks {c : Cfg} (cb : Callback c) (width k : Nat) (M : List Byte) (p : c.Perm × List Byte) : c.Perm × List Byte :=
  (List.range k).foldl
    (fun q i => ((cb ((M.drop (i * width)).take width) q.1).1, q.2 ++ (cb ((M.drop (i * width)).take width) q.1).2)) p

/-- The facade order of one message (70_reset_and_hazards.md R233): `CONSTRUCT`, `INGEST_AAD`*, (`ENCRYPT`* or `DECRYPT`*),
`FINISH`, (`AUTHENTICATE` or `VERIFY`), `RELEASE`. A duty of the host; the block enforces it through `PHASE`. -/
def facadeOrder (is : List Instr) : Prop :=
  ∃ (klen nlen : Nat) (aads pays : List Nat) (mk : Nat → Instr) (last : Instr),
    (mk = .encrypt ∨ mk = .decrypt) ∧ (last = .authenticate ∨ ∃ len, last = .verify len) ∧
    is = [.construct klen nlen] ++ aads.map .ingestAad ++ pays.map mk ++ [.finish, last, .release]

/-- The (key, nonce) bytes of the `CONSTRUCT` commands among the host's events, each a use of the pair. R235 says "unique per
(key, message)" and not which commands use a pair; that a `CONSTRUCT` which fails, and so begins no message, counts too is the
model's choice, stricter than the rule (DESIGN CHOICE; log entry 24). -/
def constructions (evs : List HostEvent) : List (List Byte × List Byte) :=
  evs.filterMap fun ev =>
    match ev with
    | .reset => none
    | .command t =>
      match decode t.cmd with
      | .ok (.construct klen _) => some (t.din.take klen, t.din.drop klen)
      | _ => none

/-- Nonce uniqueness (70_reset_and_hazards.md R235): no (key, nonce) pair twice, counting every `CONSTRUCT`
sent (DESIGN CHOICE; log entry 24). A duty of the host that `CORE` does not check. -/
def noncesUnique (evs : List HostEvent) : Prop := (constructions evs).Nodup

/-- After an error with `VOID = 1` the next command must be `RELEASE`, or the host resets (R239, R240). -/
def discardsAfterError (r : Response) (next : HostEvent) : Prop :=
  r.err ≠ .none → r.void = true → next = .reset ∨ next = present .release []

end Sys2Proof.Machine
end

