-- ==== Sys2Proof/Certificates/Slice0/Obligations.lean ====
section
/-! DEFINITION. The statements for the provers, from the numbered rules of the spec. -/

open Sys2Proof Sys2Proof.Machine

-- Encoding (30_encoding.md)

/-- R70 to R74, R77: no operand bit of any command is lost between encoder and decoder. -/
def Obligations.DecodeOfEncode : Prop :=
  ∀ i : Instr, i.WellFormed → decode (encode i) = .ok i

/-- R70 to R74, R77: a word the decoder accepts is the word of the instruction it gives, which is well formed. -/
def Obligations.EncodeOfDecode : Prop :=
  ∀ (w : CmdWord) (i : Instr), decode w = .ok i → i.WellFormed ∧ encode i = w

/-- R74, R75: the decoder accepts exactly the words that match a row, as the row's command, and no word matches two rows. -/
def Obligations.DecodeFollowsOpcodeMap : Prop :=
  ∀ w : CmdWord,
    (∀ i, decode w = .ok i → ∃ r ∈ opcodeMap, r.selects w = true ∧ r.mnemonic = i.mnemonic) ∧
    (∀ r ∈ opcodeMap, r.selects w = true → ∃ i, decode w = .ok i ∧ i.mnemonic = r.mnemonic) ∧
    (∀ r ∈ opcodeMap, ∀ r' ∈ opcodeMap, r.selects w = true → r'.selects w = true → r = r')

/-- 95_test_vectors.md V-E1 to V-E14, words written out from R70 to R75. -/
def Obligations.SampleWordsDecode : Prop :=
  decode 0x01001010#32 = .ok (.construct 16 16) ∧ decode 0x01000F10#32 = .ok (.construct 15 16) ∧
  decode 0x0200000B#32 = .ok (.ingestAad 11) ∧ decode 0x0300FFFF#32 = .ok (.encrypt 65535) ∧
  decode 0x04000000#32 = .ok (.decrypt 0) ∧ decode 0x05000000#32 = .ok .finish ∧
  decode 0x06000000#32 = .ok .authenticate ∧ decode 0x07000010#32 = .ok (.verify 16) ∧
  decode 0x08000000#32 = .ok .release ∧ decode 0x00000000#32 = .error .unknownOpcode ∧
  decode 0x09000000#32 = .error .unknownOpcode ∧ decode 0x05000001#32 = .error .operandBits ∧
  decode 0x02010000#32 = .error .reservedBits ∧ decode 0xFFFFFFFF#32 = .error .reservedBits

/-- R76: each field of the packed response word lies where the table puts it, when `OUTLEN` fits its 17 bits. -/
def Obligations.ResponseWordFields : Prop :=
  ∀ r : Response, r.outLen < 2 ^ 17 →
    r.word.extractLsb' 28 4 = errCode r.err ∧
    r.word.extractLsb' 27 1 = BitVec.ofBool r.void ∧
    r.word.extractLsb' 24 3 = phaseCode r.phase ∧
    r.word.extractLsb' 23 1 = BitVec.ofBool r.matched ∧
    r.word.extractLsb' 21 2 = dirCode r.dir ∧
    r.word.extractLsb' 17 4 = 0#4 ∧
    (r.word.extractLsb' 0 17).toNat = r.outLen

-- The step (00_scope.md R5, 20_memory.md R61, 42_duplex_commands.md R149)

/-- A presented command that decodes is executed on its input bytes: the step adds only that it leaves the host's list. -/
def Obligations.StepRunsDecodedCommand : Prop :=
  ∀ (s : State) (t : Transaction) (rest : List HostEvent) (i : Instr),
    s.input = .command t :: rest → decode t.cmd = .ok i →
    step s = exec i { s with din := t.din, input := rest }

/-- R75, R191, R196: a word that matches no row is answered with `IllegalCommand` in every state, and voids an instance. That
this holds whatever input bytes come with the word is the model's reading (log entry 6). -/
def Obligations.IllegalWordIsReported : Prop :=
  ∀ (s : State) (t : Transaction) (rest : List HostEvent),
    s.input = .command t :: rest → (∀ r ∈ opcodeMap, r.selects t.cmd = false) →
    ∃ (s' : State) (r : Response), step s = .next s' ∧ s'.input = rest ∧ Answered { s with input := rest } s' r ∧
      s'.engine = s.engine.afterError ∧ r.err = .illegalCommand ∧ r.matched = false ∧ r.dout = []

/-- The model's choice (log entry 4): with no event the step changes nothing. -/
def Obligations.StepWaitsForAnEvent : Prop :=
  ∀ s : State, s.input = [] → step s = .next s

/-- R230: the reset event zeroes everything, in any state, and gives no response. -/
def Obligations.ResetEventResetsEngine : Prop :=
  ∀ (s : State) (rest : List HostEvent), s.input = .reset :: rest →
    ∃ t : State, step s = .next t ∧ t.engine = Engine.reset Config.cfg ∧ t.input = rest ∧ t.output = s.output

/-- R35: every element has its reset value. -/
def Obligations.ResetValues : Prop :=
  (∀ i : Fin Config.cfg.N, State.reset.engine.S[i] = 0#Config.cfg.W) ∧
  (∀ i : Fin Config.cfg.KEY_LEN, State.reset.engine.K[i] = 0#8) ∧
  State.reset.engine.phase = .idle ∧ State.reset.engine.void = false ∧ State.reset.engine.dir = .none ∧
  (∀ i : Fin Config.cfg.AAD_WIDTH, State.reset.engine.aad.buf[i] = 0#8) ∧ State.reset.engine.aad.pos = 0 ∧
  (∀ i : Fin Config.cfg.PAY_WIDTH, State.reset.engine.pay.buf[i] = 0#8) ∧ State.reset.engine.pay.pos = 0

/-- R60: exactly the transactions whose `DIN` has another length than declared are refused; no instruction faults. -/
def Obligations.RefusesOnlyMalformedTransactions : Prop :=
  ∀ (i : Instr) (s : State),
    (exec i s = .refused .dinLengthMismatch ↔ s.din.length ≠ dinLength i) ∧
    (s.din.length = dinLength i → ∃ t, exec i s = .next t)

/-- R5, R60, R243: a well-formed event is always taken, from every state. That an illegal word counts as well formed whatever
bytes come with it is the model's reading (log entry 6). -/
def Obligations.WellFormedEventsAreTaken : Prop :=
  ∀ (s : State) (ev : HostEvent) (rest : List HostEvent), s.input = ev :: rest → ev.wellFormed = true →
    ∃ t : State, step s = .next t ∧ t.input = rest

-- Bytes and words (20_memory.md)

/-- R52: `LoadWord` and `StoreWord` are inverse, `StoreWord` gives `B` bytes, and each byte is the slice R52 names. -/
def Obligations.LoadStoreWord : Prop :=
  ∀ c : Cfg,
    (∀ w : BitVec c.W, loadWord c (storeWord c w) = w) ∧
    (∀ d : List Byte, d.length = c.B → storeWord c (loadWord c d) = d) ∧
    (∀ w : BitVec c.W, (storeWord c w).length = c.B) ∧
    (∀ (w : BitVec c.W) (j : Nat), j < c.B → c.BYTE_ORDER = .be →
      (storeWord c w)[j]? = some (w.extractLsb' (c.W - 8 - 8 * j) 8)) ∧
    (∀ (w : BitVec c.W) (j : Nat), j < c.B → c.BYTE_ORDER = .le →
      (storeWord c w)[j]? = some (w.extractLsb' (8 * j) 8))

/-- R53: the rate has `R_WORDS * B` bytes and byte `k` is byte `k mod B` of word `k div B`. -/
def Obligations.RateBytesLayout : Prop :=
  ∀ (c : Cfg) (S : c.Perm),
    (rateBytes c S).length = c.R_WORDS * c.B ∧
    ∀ k, k < c.R_WORDS * c.B →
      ∃ h : k / c.B < c.N, (rateBytes c S)[k]? = (storeWord c (S[k / c.B]'h))[k % c.B]?

/-- R54: the first `len(d)` rate bytes are XORed with `d`, the other rate bytes and the capacity words stay. -/
def Obligations.XorBytesOnRate : Prop :=
  ∀ (c : Cfg) (S : c.Perm) (d : List Byte), d.length ≤ c.R_WORDS * c.B →
    (∀ k (h : k < d.length), (rateBytes c (xorBytes c S d))[k]? = some ((rateBytes c S).getD k 0#8 ^^^ d[k])) ∧
    (∀ k, d.length ≤ k → (rateBytes c (xorBytes c S d))[k]? = (rateBytes c S)[k]?) ∧
    (∀ i : Fin c.N, c.R_WORDS ≤ i.val → (xorBytes c S d)[i] = S[i])

/-- R55, R7: `XorState` is wordwise, and with a key mask or a domain-separation constant it leaves the rate as it is. -/
def Obligations.XorStateChangesCapacityOnly : Prop :=
  ∀ (c : Cfg) (S M : c.Perm),
    (∀ i : Fin c.N, (xorState S M)[i] = S[i] ^^^ M[i]) ∧
    ((∃ k : c.Key, M = c.KeyMaskInit k ∨ M = c.KeyMaskFinal k) ∨ M = c.DS_AAD ∨ M = c.DS_PAY →
      rateBytes c (xorState S M) = rateBytes c S)

-- The permutation core (41_permutation.md)

/-- R122: the constant is XORed into the word `RC_WORD`, every other word stays. -/
def Obligations.AddConstChangesOneWord : Prop :=
  ∀ (c : Cfg) (S : c.Perm) (k : BitVec c.W),
    (addConst c S k)[c.RC_WORD] = S[c.RC_WORD] ^^^ k ∧
    ∀ i : Fin c.N, i ≠ c.RC_WORD → (addConst c S k)[i] = S[i]

/-- R125, R126, R127: `Apply` is the chain of `rounds` rounds, round `i` with `RoundConst(rounds, i)`. -/
def Obligations.ApplyIteratesRounds : Prop :=
  ∀ (c : Cfg) (rounds : Fin (c.ROUNDS_MAX + 1)) (S : c.Perm),
    ∃ trace : Nat → c.Perm,
      trace 0 = S ∧
      (∀ (i : Nat) (h : i < rounds.val),
        trace (i + 1) = c.Lin (c.Sub (addConst c (trace i) (c.RoundConst rounds ⟨i, h⟩)))) ∧
      applyRounds c rounds S = trace rounds.val

/-- R123, from R8 (a): the nonlinear layer commutes with a common rotation of all words. -/
def Obligations.SubCommutesWithRotation : Prop :=
  ∀ (c : Cfg) (S : c.Perm) (n : Nat), c.Sub (rotateAll S n) = rotateAll (c.Sub S) n

/-- R124, from R8 (b): the linear layer is linear, keeps zero, and commutes with a common rotation. -/
def Obligations.LinIsLinear : Prop :=
  ∀ (c : Cfg) (S T : c.Perm),
    c.Lin (xorState S T) = xorState (c.Lin S) (c.Lin T) ∧
    c.Lin (vec fun _ => 0#c.W) = vec (fun _ => 0#c.W) ∧
    ∀ n, c.Lin (rotateAll S n) = rotateAll (c.Lin S) n

-- The accumulator (40_accumulator.md)

/-- R101: feeding no byte changes nothing, whatever the cursor is. -/
def Obligations.FeedOfNothing : Prop :=
  ∀ (c : Cfg) (width : Nat) (cb : Callback c) (f : Feeding c width), feed cb [] f = f

/-- R104: how many callbacks a feed makes and where it leaves the cursor. -/
def Obligations.FeedPositionAndCallCount : Prop :=
  ∀ (c : Cfg) (width : Nat) (cb : Callback c) (data : List Byte) (f : Feeding c width),
    0 < width → f.acc.pos ≤ width →
    (data = [] → (feed (countCalls cb) data f).acc.pos = f.acc.pos ∧ (feed (countCalls cb) data f).out = f.out) ∧
    (data ≠ [] →
      (feed (countCalls cb) data f).out.length = f.out.length + callsFor width (f.acc.pos + data.length) ∧
      (feed (countCalls cb) data f).acc.pos
        = f.acc.pos + data.length - callsFor width (f.acc.pos + data.length) * width ∧
      1 ≤ (feed (countCalls cb) data f).acc.pos ∧ (feed (countCalls cb) data f).acc.pos ≤ width) ∧
    (f.acc.pos = 0 →
      (feed (countCalls cb) data f).acc.pos = if data = [] then 0 else (data.length - 1) % width + 1)

/-- R102, R105: `Feed` of `a ++ b` is `Feed` of `a`, then of `b`; the blocks handed over are the first blocks of the stream, in
order, and the rest stays in the buffer for the flush. The first equation is of the whole buffer: at or beyond the cursor it is
about the model, which always copies through the buffer (log entry 8; 93 U9), and above the width it rests on log entry 9. -/
def Obligations.FeedHandsOverStreamBlocks : Prop :=
  ∀ (c : Cfg) (width : Nat) (cb : Callback c) (a b : List Byte) (f : Feeding c width),
    feed cb (a ++ b) f = feed cb b (feed cb a f) ∧
    (0 < width → f.acc.pos ≤ width →
      ((feed cb a f).S, (feed cb a f).out)
        = runBlocks cb width (callsFor width (f.acc.pos + a.length)) (f.acc.content ++ a) (f.S, f.out) ∧
      (feed cb a f).acc.content
        = (f.acc.content ++ a).drop (callsFor width (f.acc.pos + a.length) * width))

-- Block transforms (42_duplex_commands.md section 1)

/-- R140: data, marker, zeros, exactly the block width. -/
def Obligations.PadLayout : Prop :=
  ∀ (c : Cfg) (d : List Byte) (width : Nat), d.length < width →
    (pad c d width).length = width ∧
    (∀ k, k < d.length → (pad c d width)[k]? = d[k]?) ∧
    (pad c d width)[d.length]? = some c.PAD_MARKER ∧
    (∀ k, d.length < k → k < width → (pad c d width)[k]? = some 0#8)

/-- R142, R143: what a payload block emits and what the rate holds before the permutation, in each direction. -/
def Obligations.PayloadBlocks : Prop :=
  ∀ (c : Cfg) (blk : List Byte) (S : c.Perm), blk.length = c.PAY_WIDTH →
    ∃ Se Sd : c.Perm,
      (encBlock c blk S).1 = applyRounds c c.ROUNDS_BLOCK Se ∧
      (encBlock c blk S).2 = xorStrings ((rateBytes c S).take c.PAY_WIDTH) blk ∧
      rateBytes c Se = (encBlock c blk S).2 ++ (rateBytes c S).drop c.PAY_WIDTH ∧
      (decBlock c blk S).1 = applyRounds c c.ROUNDS_BLOCK Sd ∧
      (decBlock c blk S).2 = xorStrings ((rateBytes c S).take c.PAY_WIDTH) blk ∧
      rateBytes c Sd = blk ++ (rateBytes c S).drop c.PAY_WIDTH ∧
      ∀ i : Fin c.N, c.R_WORDS ≤ i.val → Se[i] = S[i] ∧ Sd[i] = S[i]

/-- R23, R141: the bytes of a block reach a capacity word only through `Apply`. `Sa` and `Sp` are what the block callbacks hand to
`Apply`, whole; `AbsorbBlock` emits nothing and XORs its block into the first `AAD_WIDTH` rate bytes. -/
def Obligations.DataReachesCapacityThroughApply : Prop :=
  ∀ (c : Cfg) (d : Dir) (blk : List Byte) (S : c.Perm),
    let Sa := xorBytes c S blk
    let Sp := xorBytes c S (if d = .dec then (payBlock c d blk S).2 else blk)
    absorbBlock c blk S = (applyRounds c c.ROUNDS_BLOCK Sa, []) ∧
    (payBlock c d blk S).1 = applyRounds c c.ROUNDS_BLOCK Sp ∧
    (∀ i : Fin c.N, c.R_WORDS ≤ i.val → Sa[i] = S[i] ∧ Sp[i] = S[i] ∧ (lastBlock c d blk S).1[i] = S[i]) ∧
    (blk.length = c.AAD_WIDTH →
      rateBytes c Sa = xorStrings ((rateBytes c S).take c.AAD_WIDTH) blk ++ (rateBytes c S).drop c.AAD_WIDTH)

/-- R144: the AAD flush, with a deferred full block, with a remainder, and with the empty stream. -/
def Obligations.FlushAadEffect : Prop :=
  ∀ (c : Cfg) (e : Engine c),
    flushAad c e =
      { e with
        S := xorState
          (if e.aad.pos = c.AAD_WIDTH then
            applyRounds c c.ROUNDS_BLOCK
              (xorBytes c (applyRounds c c.ROUNDS_BLOCK (xorBytes c e.S e.aad.buf.toList)) (pad c [] c.AAD_WIDTH))
          else if c.AAD_EMPTY_SKIPS_PAD = true ∧ e.aad.pos = 0 then e.S
          else applyRounds c c.ROUNDS_BLOCK (xorBytes c e.S (pad c (e.aad.buf.toList.take e.aad.pos) c.AAD_WIDTH)))
          c.DS_AAD
        aad := { buf := Vector.replicate c.AAD_WIDTH 0#8, pos := 0 } }

/-- R145: the payload flush without a deferred block, when encrypting (or with no direction) and when decrypting. -/
def Obligations.FlushPayOfRemainder : Prop :=
  ∀ (c : Cfg) (e : Engine c), e.pay.pos < c.PAY_WIDTH →
    ∃ (pt : List Byte) (S1 : c.Perm),
      (e.dir = .dec → pt = xorStrings ((rateBytes c e.S).take e.pay.pos) (e.pay.buf.toList.take e.pay.pos) ∧
        (flushPay c e).2 = pt) ∧
      (e.dir ≠ .dec → pt = e.pay.buf.toList.take e.pay.pos ∧ (flushPay c e).2 = (rateBytes c S1).take e.pay.pos) ∧
      S1 = xorBytes c e.S (pad c pt c.PAY_WIDTH) ∧
      (flushPay c e).1 =
        { e with
          S := xorState (if c.PAY_LAST_PERMUTES = true then applyRounds c c.ROUNDS_BLOCK S1 else S1) c.DS_PAY
          pay := { buf := Vector.replicate c.PAY_WIDTH 0#8, pos := 0 } }

/-- R145, R103: a deferred full block is processed as an ordinary one, then an empty padded block. -/
def Obligations.FlushPayOfFullBlock : Prop :=
  ∀ (c : Cfg) (e : Engine c), e.pay.pos = c.PAY_WIDTH →
    (e.dir = .dec →
      flushPay c e =
        ((flushPay c { e with S := (decBlock c e.pay.buf.toList e.S).1, pay := { e.pay with pos := 0 } }).1,
          (decBlock c e.pay.buf.toList e.S).2)) ∧
    (e.dir ≠ .dec →
      flushPay c e =
        ((flushPay c { e with S := (encBlock c e.pay.buf.toList e.S).1, pay := { e.pay with pos := 0 } }).1,
          (encBlock c e.pay.buf.toList e.S).2))

/-- R147: the comparator decides equality of strings of equal length. -/
def Obligations.CtEqDecidesEquality : Prop :=
  ∀ a b : List Byte, a.length = b.length → (ctEq a b = true ↔ a = b)

/-- R158: decrypting what a block was encrypted to gives the block back and leaves the same state, for a full block and for
the padded last one. -/
def Obligations.BlockRoundTrip : Prop :=
  ∀ (c : Cfg) (pt : List Byte) (S : c.Perm),
    (pt.length = c.PAY_WIDTH → decBlock c (encBlock c pt S).2 S = ((encBlock c pt S).1, pt)) ∧
    (pt.length < c.PAY_WIDTH → lastBlock c .dec (lastBlock c .enc pt S).2 S = ((lastBlock c .enc pt S).1, pt))

/-- R158: two engines of equal `S` and `K`, one encrypting a payload stream, one decrypting what the first emitted, end the
flush with equal `S`, the plaintext is recovered, and the tags are equal. -/
def Obligations.StreamRoundTrip : Prop :=
  ∀ (c : Cfg) (e d : Engine c) (pt : List Byte),
    e.S = d.S → e.K = d.K → e.dir = .enc → d.dir = .dec → e.pay.pos = 0 → d.pay.pos = 0 →
    let e1 := feed (encBlock c) pt { acc := e.pay, S := e.S, out := [] }
    let e2 := flushPay c { e with S := e1.S, pay := e1.acc }
    let d1 := feed (decBlock c) (e1.out ++ e2.2) { acc := d.pay, S := d.S, out := [] }
    let d2 := flushPay c { d with S := d1.S, pay := d1.acc }
    d2.1.S = e2.1.S ∧ d1.out ++ d2.2 = pt ∧ tagOf c d2.1 = tagOf c e2.1

-- The commands (42_duplex_commands.md section 3)

/-- R150, R193, R194: a `CONSTRUCT` in `IDLE` with the configured lengths builds the state from key and nonce; with a wrong
length it reports it, the key first, and changes nothing; in another phase it is a `ProtocolViolation`. That a successful
`CONSTRUCT` leaves the bytes of both buffers is read from its pseudocode (log entry 16). -/
def Obligations.ConstructCommand : Prop :=
  ∀ (klen nlen : Nat) (s : State), s.din.length = klen + nlen → s.engine.void = false →
    ∃ (t : State) (r : Response), exec (.construct klen nlen) s = .next t ∧ Answered s t r ∧
      r.dout = [] ∧ r.matched = false ∧
      (s.engine.phase = .idle → klen = Config.cfg.KEY_LEN → nlen = Config.cfg.NONCE_LEN →
        r.err = .none ∧
        ∃ (key : Config.cfg.Key) (nonce : Config.cfg.Nonce), key.toList = s.din.take klen ∧ nonce.toList = s.din.drop klen ∧
          t.engine =
            { s.engine with
              S := xorState (applyRounds Config.cfg Config.cfg.ROUNDS_INIT (Config.cfg.InitState key nonce))
                (Config.cfg.KeyMaskInit key)
              K := key
              dir := .none
              aad := { s.engine.aad with pos := 0 }
              pay := { s.engine.pay with pos := 0 }
              phase := .absorbingAad }) ∧
      (s.engine.phase = .idle → klen ≠ Config.cfg.KEY_LEN → r.err = .invalidKeyLength ∧ t.engine = s.engine) ∧
      (s.engine.phase = .idle → klen = Config.cfg.KEY_LEN → nlen ≠ Config.cfg.NONCE_LEN →
        r.err = .invalidNonceLength ∧ t.engine = s.engine) ∧
      (s.engine.phase ≠ .idle → r.err = .protocolViolation ∧ t.engine = s.engine.afterError)

/-- R151: in `ABSORBING_AAD` the bytes are fed to the AAD accumulator, nothing else changes and nothing is output; in another
phase it is a `ProtocolViolation`. -/
def Obligations.IngestAadCommand : Prop :=
  ∀ (len : Nat) (s : State), s.din.length = len → s.engine.void = false →
    ∃ (t : State) (r : Response), exec (.ingestAad len) s = .next t ∧ Answered s t r ∧ r.dout = [] ∧ r.matched = false ∧
      (s.engine.phase = .absorbingAad →
        r.err = .none ∧
        t.engine =
          { s.engine with
            S := (feed (absorbBlock Config.cfg) s.din { acc := s.engine.aad, S := s.engine.S, out := [] }).S
            aad := (feed (absorbBlock Config.cfg) s.din { acc := s.engine.aad, S := s.engine.S, out := [] }).acc } ∧
        (len = 0 → t.engine = s.engine)) ∧
      (s.engine.phase ≠ .absorbingAad → r.err = .protocolViolation ∧ t.engine = s.engine.afterError)

/-- R152: the first `ENCRYPT` flushes the AAD, enters `ABSORBING_PAYLOAD` and latches `ENC`, even with no byte; a later one
only feeds; the output is what `EncBlock` emits, a whole number of blocks; everywhere else it is a `ProtocolViolation`. -/
def Obligations.EncryptCommand : Prop :=
  ∀ (len : Nat) (s : State), s.din.length = len → s.engine.void = false →
    ∃ (t : State) (r : Response), exec (.encrypt len) s = .next t ∧ Answered s t r ∧ r.matched = false ∧
      (s.engine.phase = .absorbingAad →
        r.err = .none ∧
        let e := flushAad Config.cfg s.engine
        let f := feed (encBlock Config.cfg) s.din { acc := e.pay, S := e.S, out := [] }
        r.dout = f.out ∧
        t.engine = { e with S := f.S, pay := f.acc, phase := .absorbingPayload, dir := .enc }) ∧
      (s.engine.phase = .absorbingPayload → s.engine.dir = .enc →
        r.err = .none ∧
        let f := feed (encBlock Config.cfg) s.din { acc := s.engine.pay, S := s.engine.S, out := [] }
        r.dout = f.out ∧ t.engine = { s.engine with S := f.S, pay := f.acc } ∧ (len = 0 → t.engine = s.engine)) ∧
      (r.err = .none → s.engine.pay.pos ≤ Config.cfg.PAY_WIDTH →
        r.outLen =
          if len = 0 then 0 else callsFor Config.cfg.PAY_WIDTH (s.engine.pay.pos + len) * Config.cfg.PAY_WIDTH) ∧
      (s.engine.phase ≠ .absorbingAad → ¬ (s.engine.phase = .absorbingPayload ∧ s.engine.dir = .enc) →
        r.err = .protocolViolation ∧ r.dout = [] ∧ t.engine = s.engine.afterError)

/-- R153: as R152, with `DEC` for `ENC` and `DecBlock` for `EncBlock`. -/
def Obligations.DecryptCommand : Prop :=
  ∀ (len : Nat) (s : State), s.din.length = len → s.engine.void = false →
    ∃ (t : State) (r : Response), exec (.decrypt len) s = .next t ∧ Answered s t r ∧ r.matched = false ∧
      (s.engine.phase = .absorbingAad →
        r.err = .none ∧
        let e := flushAad Config.cfg s.engine
        let f := feed (decBlock Config.cfg) s.din { acc := e.pay, S := e.S, out := [] }
        r.dout = f.out ∧
        t.engine = { e with S := f.S, pay := f.acc, phase := .absorbingPayload, dir := .dec }) ∧
      (s.engine.phase = .absorbingPayload → s.engine.dir = .dec →
        r.err = .none ∧
        let f := feed (decBlock Config.cfg) s.din { acc := s.engine.pay, S := s.engine.S, out := [] }
        r.dout = f.out ∧ t.engine = { s.engine with S := f.S, pay := f.acc } ∧ (len = 0 → t.engine = s.engine)) ∧
      (r.err = .none → s.engine.pay.pos ≤ Config.cfg.PAY_WIDTH →
        r.outLen =
          if len = 0 then 0 else callsFor Config.cfg.PAY_WIDTH (s.engine.pay.pos + len) * Config.cfg.PAY_WIDTH) ∧
      (s.engine.phase ≠ .absorbingAad → ¬ (s.engine.phase = .absorbingPayload ∧ s.engine.dir = .dec) →
        r.err = .protocolViolation ∧ r.dout = [] ∧ t.engine = s.engine.afterError)

/-- R154: `FINISH` flushes the payload, in `ABSORBING_AAD` the AAD before it, and enters `FINALIZED`, and outputs
`PPOS` bytes; everywhere else it is a `ProtocolViolation`. -/
def Obligations.FinishCommand : Prop :=
  ∀ s : State, s.din = [] → s.engine.void = false →
    ∃ (t : State) (r : Response), exec .finish s = .next t ∧ Answered s t r ∧ r.matched = false ∧
      (s.engine.phase = .absorbingAad →
        r.err = .none ∧ r.dout = (flushPay Config.cfg (flushAad Config.cfg s.engine)).2 ∧
        t.engine = { (flushPay Config.cfg (flushAad Config.cfg s.engine)).1 with phase := .finalized } ∧
        t.engine.dir = s.engine.dir) ∧
      (s.engine.phase = .absorbingPayload →
        r.err = .none ∧ r.dout = (flushPay Config.cfg s.engine).2 ∧
        t.engine = { (flushPay Config.cfg s.engine).1 with phase := .finalized }) ∧
      (r.err = .none → s.engine.pay.pos ≤ Config.cfg.PAY_WIDTH → r.outLen = s.engine.pay.pos) ∧
      (s.engine.phase ≠ .absorbingAad → s.engine.phase ≠ .absorbingPayload →
        r.err = .protocolViolation ∧ r.dout = [] ∧ t.engine = s.engine.afterError)

/-- R155, R146: in `FINALIZED`, `AUTHENTICATE` outputs the whole tag, clears the key and enters `TAGGED`, whatever `DIR`
is; elsewhere it is a `ProtocolViolation`. -/
def Obligations.AuthenticateCommand : Prop :=
  ∀ s : State, s.din = [] → s.engine.void = false →
    ∃ (t : State) (r : Response), exec .authenticate s = .next t ∧ Answered s t r ∧ r.matched = false ∧
      (s.engine.phase = .finalized →
        r.err = .none ∧ r.outLen = Config.cfg.TAG_LEN ∧
        let S1 := applyRounds Config.cfg Config.cfg.ROUNDS_FINAL (xorState s.engine.S (Config.cfg.KeyMaskFinal s.engine.K))
        r.dout = (Config.cfg.TagDerive S1 s.engine.K).toList ∧
        t.engine = { s.engine with S := S1, K := Vector.replicate Config.cfg.KEY_LEN 0#8, phase := .tagged }) ∧
      (s.engine.phase ≠ .finalized →
        r.err = .protocolViolation ∧ r.dout = [] ∧ t.engine = s.engine.afterError)

/-- R156, R146, R195, R200: in `FINALIZED`, `VERIFY` of `TAG_LEN` bytes says in `MATCH` whether they are the tag, emits
nothing, and enters `TAGGED` in both outcomes; another length is `InvalidTagLength`; elsewhere a `ProtocolViolation`. -/
def Obligations.VerifyCommand : Prop :=
  ∀ (len : Nat) (s : State), s.din.length = len → s.engine.void = false →
    ∃ (t : State) (r : Response), exec (.verify len) s = .next t ∧ Answered s t r ∧ r.dout = [] ∧
      (s.engine.phase = .finalized → len = Config.cfg.TAG_LEN →
        r.err = .none ∧ t.engine.void = false ∧
        let S1 := applyRounds Config.cfg Config.cfg.ROUNDS_FINAL (xorState s.engine.S (Config.cfg.KeyMaskFinal s.engine.K))
        (r.matched = true ↔ (Config.cfg.TagDerive S1 s.engine.K).toList = s.din) ∧
        t.engine = { s.engine with S := S1, K := Vector.replicate Config.cfg.KEY_LEN 0#8, phase := .tagged }) ∧
      (s.engine.phase = .finalized → len ≠ Config.cfg.TAG_LEN →
        r.err = .invalidTagLength ∧ r.matched = false ∧ t.engine = { s.engine with void := true }) ∧
      (s.engine.phase ≠ .finalized →
        r.err = .protocolViolation ∧ r.matched = false ∧ t.engine = s.engine.afterError)

/-- R157: from every state `RELEASE` gives the reset state and cannot fail. -/
def Obligations.ReleaseCommand : Prop :=
  ∀ s : State, s.din = [] →
    ∃ (t : State) (r : Response), exec .release s = .next t ∧ Answered s t r ∧
      t.engine = Engine.reset Config.cfg ∧ r.err = .none ∧ r.matched = false ∧ r.dout = []

-- Responses and errors (30_encoding.md R76, 60_exceptions.md)

/-- R76: every command gives exactly one response; `MATCH` is 1 only for a `VERIFY` that succeeded and found the tag; an
error comes without output. -/
def Obligations.OneResponsePerCommand : Prop :=
  ∀ (i : Instr) (s t : State), exec i s = .next t →
    ∃ r : Response, Answered s t r ∧
      (r.matched = true ↔ (∃ len, i = .verify len) ∧ r.err = .none ∧ (tagOf Config.cfg s.engine).toList = s.din) ∧
      (r.err ≠ .none → r.outLen = 0)

/-- R192: exactly when a command ends in `ProtocolViolation`, from every state that meets the invariants. -/
def Obligations.WrongPhaseIsReported : Prop :=
  ∀ (i : Instr) (s : State), s.engine.Inv → s.din.length = dinLength i →
    ∃ (t : State) (r : Response), exec i s = .next t ∧ Answered s t r ∧
      (r.err = .protocolViolation ↔
        (s.engine.void = true ∧ i ≠ .release) ∨
        ((∃ klen nlen, i = .construct klen nlen) ∧ s.engine.phase ≠ .idle) ∨
        ((∃ len, i = .ingestAad len) ∧ s.engine.phase ≠ .absorbingAad) ∨
        ((∃ len, i = .encrypt len ∨ i = .decrypt len) ∧
          (s.engine.phase = .idle ∨ s.engine.phase = .finalized ∨ s.engine.phase = .tagged)) ∨
        (i = .finish ∧ (s.engine.phase = .idle ∨ s.engine.phase = .finalized ∨ s.engine.phase = .tagged)) ∨
        ((i = .authenticate ∨ ∃ len, i = .verify len) ∧ s.engine.phase ≠ .finalized) ∨
        ((∃ len, i = .encrypt len) ∧ s.engine.dir = .dec) ∨ ((∃ len, i = .decrypt len) ∧ s.engine.dir = .enc))

/-- R196: a command that ends in an error, an illegal word too, changes nothing but `VOID`, which is set exactly when an
instance exists; it outputs nothing, its `DIN` is consumed, and the response carries the state after it. -/
def Obligations.ErrorEntryFrame : Prop :=
  ∀ (s t : State) (tr : Transaction) (rest : List HostEvent) (r : Response),
    s.input = .command tr :: rest → step s = .next t → t.output = s.output ++ [r] → r.err ≠ .none →
    t.engine.S = s.engine.S ∧ t.engine.K = s.engine.K ∧ t.engine.phase = s.engine.phase ∧ t.engine.dir = s.engine.dir ∧
    t.engine.aad = s.engine.aad ∧ t.engine.pay = s.engine.pay ∧
    (s.engine.phase ≠ .idle → t.engine.void = true) ∧ (s.engine.phase = .idle → t.engine.void = s.engine.void) ∧
    r.outLen = 0 ∧ r.dout = [] ∧ r.matched = false ∧ t.din = [] ∧ t.input = rest ∧
    r.void = t.engine.void ∧ r.phase = t.engine.phase ∧ r.dir = t.engine.dir

/-- R197: in `IDLE` an error, of an illegal word too, leaves the whole architectural state unchanged. -/
def Obligations.ErrorsInIdleChangeNothing : Prop :=
  ∀ (s t : State) (tr : Transaction) (rest : List HostEvent) (r : Response),
    s.input = .command tr :: rest → s.engine.phase = .idle → step s = .next t → t.output = s.output ++ [r] →
    r.err ≠ .none → t.engine = s.engine

/-- R26, R199: while `VOID = 1` every command but `RELEASE` is a `ProtocolViolation` and changes nothing. -/
def Obligations.VoidAdmitsOnlyRelease : Prop :=
  ∀ (i : Instr) (s : State), s.engine.void = true → i ≠ .release → s.din.length = dinLength i →
    ∃ (t : State) (r : Response), exec i s = .next t ∧ Answered s t r ∧ r.err = .protocolViolation ∧ t.engine = s.engine

/-- R198: the one error a command reports, by priority (the word's own legality comes first, in `IllegalWordIsReported`). -/
def Obligations.ErrorPriority : Prop :=
  ∀ (i : Instr) (s t : State) (r : Response), exec i s = .next t → Answered s t r → i ≠ .release →
    (s.engine.void = true → r.err = .protocolViolation) ∧
    (s.engine.void = false → phaseLegal i s.engine.phase s.engine.dir = false → r.err = .protocolViolation) ∧
    (s.engine.void = false → phaseLegal i s.engine.phase s.engine.dir = true →
      (∀ klen nlen, i = .construct klen nlen →
        r.err = if klen ≠ Config.cfg.KEY_LEN then .invalidKeyLength
          else if nlen ≠ Config.cfg.NONCE_LEN then .invalidNonceLength else .none) ∧
      (∀ len, i = .verify len → r.err = if len ≠ Config.cfg.TAG_LEN then .invalidTagLength else .none) ∧
      ((∀ klen nlen, i ≠ .construct klen nlen) → (∀ len, i ≠ .verify len) → r.err = .none))

-- Whole-machine rules

/-- The invariants of 10_state.md (R21, R24, R26 to R30, R35) and the limits of R76 are kept by every step. That `din`
is empty between commands is about a field of the model's own (log entry 3). -/
def Obligations.StepKeepsInvariant : Prop :=
  ∀ s t : State, s.Inv → step s = .next t → t.Inv

/-- They hold at reset. The clauses on `din` and on the responses hold there because the model's own fields `din` and `output`
are empty at reset, which is its choice (log entry 3). -/
def Obligations.ResetMeetsInvariant : Prop := State.reset.Inv

/-- R148: the phase after a command that succeeded. -/
def Obligations.PhaseTransitions : Prop :=
  ∀ (i : Instr) (s t : State) (r : Response), exec i s = .next t → Answered s t r →
    (r.err ≠ .none → t.engine.phase = s.engine.phase) ∧
    (r.err = .none →
      match i with
      | .construct _ _ => s.engine.phase = .idle ∧ t.engine.phase = .absorbingAad
      | .ingestAad _ => s.engine.phase = .absorbingAad ∧ t.engine.phase = .absorbingAad
      | .encrypt _ | .decrypt _ =>
        (s.engine.phase = .absorbingAad ∨ s.engine.phase = .absorbingPayload) ∧ t.engine.phase = .absorbingPayload
      | .finish =>
        (s.engine.phase = .absorbingAad ∨ s.engine.phase = .absorbingPayload) ∧ t.engine.phase = .finalized
      | .authenticate | .verify _ => s.engine.phase = .finalized ∧ t.engine.phase = .tagged
      | .release => t.engine.phase = .idle)

/-- R25, R36, R162: within an instance `PHASE` only increases; the one way back is `RELEASE`, to `IDLE`. -/
def Obligations.PhaseIsMonotonic : Prop :=
  ∀ (i : Instr) (s t : State), exec i s = .next t →
    (i = .release ∧ t.engine.phase = .idle) ∨
      (phaseCode s.engine.phase).toNat ≤ (phaseCode t.engine.phase).toNat

/-- R24, by command: a successful `CONSTRUCT`, from `IDLE`, loads the key; a successful `AUTHENTICATE` or `VERIFY`, from
`FINALIZED` to `TAGGED`, and every `RELEASE` clear it; everything else leaves it as it was. -/
def Obligations.KeyLifetime : Prop :=
  ∀ (i : Instr) (s t : State) (r : Response), exec i s = .next t → Answered s t r →
    match i with
    | .construct _ _ =>
      (r.err = .none → s.engine.phase = .idle ∧ t.engine.K.toList = s.din.take Config.cfg.KEY_LEN) ∧
      (r.err ≠ .none → t.engine.K = s.engine.K)
    | .authenticate | .verify _ =>
      (r.err = .none → s.engine.phase = .finalized ∧ t.engine.phase = .tagged ∧
        t.engine.K = Vector.replicate Config.cfg.KEY_LEN 0#8) ∧
      (r.err ≠ .none → t.engine.K = s.engine.K)
    | .release => t.engine.K = Vector.replicate Config.cfg.KEY_LEN 0#8
    | .ingestAad _ | .encrypt _ | .decrypt _ | .finish => t.engine.K = s.engine.K

/-- R27, by command: the first payload command, one that succeeds in `ABSORBING_AAD`, latches its direction; `RELEASE` and a
successful `CONSTRUCT`, from `IDLE`, leave `NONE`; everything else leaves `DIR` as it was. -/
def Obligations.DirectionLatch : Prop :=
  ∀ (i : Instr) (s t : State) (r : Response), exec i s = .next t → Answered s t r →
    match i with
    | .encrypt _ =>
      t.engine.dir = if r.err = .none ∧ s.engine.phase = .absorbingAad then .enc else s.engine.dir
    | .decrypt _ =>
      t.engine.dir = if r.err = .none ∧ s.engine.phase = .absorbingAad then .dec else s.engine.dir
    | .construct _ _ =>
      (r.err = .none → s.engine.phase = .idle ∧ t.engine.dir = .none) ∧
      (r.err ≠ .none → t.engine.dir = s.engine.dir)
    | .release => t.engine.dir = .none
    | .ingestAad _ | .finish | .authenticate | .verify _ => t.engine.dir = s.engine.dir

/-- The frame of each command that succeeds: every element of the state, and of the port, that it leaves unchanged
(R20's columns, R150 to R156). `RELEASE` writes every element; of it only the port has a frame. That `CONSTRUCT` leaves the
bytes of both buffers is read from its pseudocode (log entry 16). -/
def Obligations.CommandFrames : Prop :=
  ∀ (i : Instr) (s t : State) (r : Response), exec i s = .next t → Answered s t r → r.err = .none →
    t.input = s.input ∧ (∀ q ∈ s.output, q ∈ t.output) ∧
    match i with
    | .construct _ _ =>
      t.engine.void = s.engine.void ∧ t.engine.aad.buf = s.engine.aad.buf ∧ t.engine.pay.buf = s.engine.pay.buf
    | .ingestAad _ =>
      t.engine.K = s.engine.K ∧ t.engine.phase = s.engine.phase ∧ t.engine.void = s.engine.void ∧
      t.engine.dir = s.engine.dir ∧ t.engine.pay = s.engine.pay
    | .encrypt _ | .decrypt _ =>
      t.engine.K = s.engine.K ∧ t.engine.void = s.engine.void ∧
      (s.engine.phase ≠ .absorbingAad →
        t.engine.aad = s.engine.aad ∧ t.engine.phase = s.engine.phase ∧ t.engine.dir = s.engine.dir)
    | .finish =>
      t.engine.K = s.engine.K ∧ t.engine.void = s.engine.void ∧ t.engine.dir = s.engine.dir ∧
      (s.engine.phase ≠ .absorbingAad → t.engine.aad = s.engine.aad)
    | .authenticate | .verify _ =>
      t.engine.void = s.engine.void ∧ t.engine.dir = s.engine.dir ∧ t.engine.aad = s.engine.aad ∧
      t.engine.pay = s.engine.pay
    | .release => True

/-- R160: how many bytes each command outputs when it succeeds. -/
def Obligations.OutputLengths : Prop :=
  ∀ (i : Instr) (s t : State) (r : Response), exec i s = .next t → Answered s t r → r.err = .none →
    s.engine.pay.pos ≤ Config.cfg.PAY_WIDTH →
    r.outLen =
      match i with
      | .encrypt len | .decrypt len =>
        if len = 0 then 0 else callsFor Config.cfg.PAY_WIDTH (s.engine.pay.pos + len) * Config.cfg.PAY_WIDTH
      | .finish => s.engine.pay.pos
      | .authenticate => Config.cfg.TAG_LEN
      | .construct _ _ | .ingestAad _ | .verify _ | .release => 0

/-- R102, R105, R151 to R153, R159: a stream command on `a ++ b` leaves the same engine as one on `a` and then one on `b`, and the
outputs concatenate to the same bytes; the error code is the same (R192). The engines are compared with their whole buffers: at
or beyond a cursor that is about the model, which always copies through the buffer (log entry 8; 93 U9), and above the width it
rests on log entry 9. -/
def Obligations.ChunkingInvariance : Prop :=
  ∀ mk ∈ [Instr.ingestAad, Instr.encrypt, Instr.decrypt], ∀ (s : State) (a b : List Byte),
    ∃ (t1 t2 t : State) (r1 r2 r : Response),
      exec (mk a.length) { s with din := a } = .next t1 ∧ Answered { s with din := a } t1 r1 ∧
      exec (mk b.length) { t1 with din := b } = .next t2 ∧ Answered { t1 with din := b } t2 r2 ∧
      exec (mk (a ++ b).length) { s with din := a ++ b } = .next t ∧ Answered { s with din := a ++ b } t r ∧
      t2.engine = t.engine ∧ r1.dout ++ r2.dout = r.dout ∧ r2.err = r.err

/-- R154, R159: in `ABSORBING_AAD` with no payload, `FINISH` alone and a zero-length payload command followed by `FINISH`
leave the same state but for `DIR`, and output nothing. -/
def Obligations.ZeroLengthPayloadThenFinish : Prop :=
  ∀ mk ∈ [Instr.encrypt, Instr.decrypt], ∀ s : State,
    s.engine.phase = .absorbingAad → s.engine.void = false → s.engine.pay.pos = 0 → s.din = [] →
    ∃ (t u v : State) (rt ru rv : Response),
      exec .finish s = .next t ∧ Answered s t rt ∧
      exec (mk 0) s = .next u ∧ Answered s u ru ∧ exec .finish u = .next v ∧ Answered u v rv ∧
      v.engine = { t.engine with dir := v.engine.dir } ∧ rt.dout = [] ∧ ru.dout = [] ∧ rv.dout = []

/-- R28, R29, R107: buffer bytes at or beyond a cursor are read by no rule: two states that differ only there give equal
responses and end in states that differ only there. -/
def Obligations.StaleBufferBytesUnread : Prop :=
  ∀ (i : Instr) (s u s' : State),
    s.engine.aad.pos ≤ Config.cfg.AAD_WIDTH → s.engine.pay.pos ≤ Config.cfg.PAY_WIDTH →
    s.engine.Agrees u.engine → s.din = u.din → s.input = u.input → s.output = u.output → exec i s = .next s' →
    ∃ u' : State, exec i u = .next u' ∧ s'.engine.Agrees u'.engine ∧ s'.din = u'.din ∧ s'.input = u'.input ∧
      s'.output = u'.output

-- Runs (70_reset_and_hazards.md R244)

/-- R244: in every run each command is executed and answered once, in order; a complete run, whose last command is `RELEASE`,
ends in the reset state. What a run is, is read from R244 (log entry 23); that the observation begins empty is the model's choice
(log entry 3). -/
def Obligations.RunsAndCompleteRuns : Prop :=
  ∀ cmds : List Transaction, isRun cmds →
    (runStates cmds).length = cmds.length + 1 ∧ (runObservation cmds).length = cmds.length ∧
    (∀ (k : Nat) (s t : State), (runStates cmds)[k]? = some s → (runStates cmds)[k + 1]? = some t →
      step s = .next t ∧ ∃ r, t.observation = s.observation ++ [r]) ∧
    (runComplete cmds → ∃ s, (runStates cmds).getLast? = some s ∧ s.engine = Engine.reset Config.cfg ∧ s.input = [])

/-- R244, R36, R148: a message that is complete got so by a successful `AUTHENTICATE` or `VERIFY` of its own instance, in a
state that was `FINALIZED`. When a message is complete is read from R244 (log entry 23). -/
def Obligations.MessageCompletesByTag : Prop :=
  ∀ (cmds : List Transaction) (i : Nat), isRun cmds → messageComplete cmds i →
    ∃ (j : Nat) (x : Transaction) (s t : State) (r : Response),
      withinInstance cmds i (j + 1) ∧ cmds[j]? = some x ∧
      (decode x.cmd = .ok .authenticate ∨ ∃ len, decode x.cmd = .ok (.verify len)) ∧
      (runStates cmds)[j]? = some s ∧ (runStates cmds)[j + 1]? = some t ∧
      s.engine.phase = .finalized ∧ t.engine.phase = .tagged ∧ t.engine.void = false ∧
      t.observation = s.observation ++ [r] ∧ r.err = .none
end

