-- ==== Sys2Proof/Laws/Accumulator.lean ====
section
/-! SUPPORT. The small lemmas of the accumulator, and the equation of the spec's `Feed` loop (spec/40_accumulator.md R102). -/

namespace Sys2Proof.Machine

variable {c : Cfg} {width : Nat}

@[simp] theorem Acc.push_pos (a : Acc width) (b : Byte) : (a.push b).pos = a.pos + 1 := rfl

@[simp] theorem Acc.push_buf (a : Acc width) (b : Byte) : (a.push b).buf = a.buf.setIfInBounds a.pos b := rfl

/-- A byte stored below the width becomes the last byte of the content. -/
theorem Acc.push_content (a : Acc width) (b : Byte) (h : a.pos < width) : (a.push b).content = a.content ++ [b] := by
  have hl : a.pos < a.buf.toList.length := by simpa using h
  simp only [Acc.content, Acc.push_buf, Acc.push_pos, Vector.toList_setIfInBounds]
  rw [List.take_add_one, List.take_set_of_le (Nat.le_refl _)]
  simp [h]

theorem Acc.content_length (a : Acc width) (h : a.pos ≤ width) : a.content.length = a.pos := by
  simp [Acc.content, h]

theorem Acc.content_full (a : Acc width) (h : a.pos = width) : a.content = a.buf.toList := by
  simp [Acc.content, h]

theorem handOver_full (cb : Callback c) (f : Feeding c width) (h : f.acc.pos = width) :
    handOver cb f =
      { acc := { f.acc with pos := 0 }, S := (cb f.acc.buf.toList f.S).1, out := f.out ++ (cb f.acc.buf.toList f.S).2 } := by
  simp [handOver, h]

theorem handOver_notFull (cb : Callback c) (f : Feeding c width) (h : f.acc.pos ≠ width) : handOver cb f = f := by
  simp [handOver, h]

theorem feed_cons (cb : Callback c) (b : Byte) (data : List Byte) (f : Feeding c width) :
    feed cb (b :: data) f = feed cb data (feedByte cb f b) := rfl

/-- With a positive width a hand-over leaves room for a byte. -/
theorem handOver_pos_lt (cb : Callback c) (f : Feeding c width) (hw : 0 < width) (h : f.acc.pos ≤ width) :
    (handOver cb f).acc.pos < width := by
  by_cases hp : f.acc.pos = width
  · simpa [handOver_full cb f hp] using hw
  · simp only [handOver_notFull cb f hp]
    omega

theorem feedByte_pos (cb : Callback c) (f : Feeding c width) (b : Byte) (hw : 0 < width) (h : f.acc.pos ≤ width) :
    1 ≤ (feedByte cb f b).acc.pos ∧ (feedByte cb f b).acc.pos ≤ width := by
  have := handOver_pos_lt cb f hw h
  simp [feedByte]
  omega

/-- A cursor within the buffer stays within it. -/
theorem feed_pos_le (cb : Callback c) (data : List Byte) (f : Feeding c width) (hw : 0 < width) (h : f.acc.pos ≤ width) :
    (feed cb data f).acc.pos ≤ width := by
  induction data generalizing f with
  | nil => exact h
  | cons b data ih => exact ih _ (feedByte_pos cb f b hw h).2

/-- The bytes stored one after another from the cursor on: the range write `buf[pos .. pos+n) <- data` of R102. -/
def Acc.pushAll (a : Acc width) (data : List Byte) : Acc width := data.foldl Acc.push a

/-- Bytes that fit before the block is complete are stored and nothing is handed over. -/
theorem feed_fits (cb : Callback c) (data : List Byte) (f : Feeding c width) (h : f.acc.pos + data.length ≤ width) :
    feed cb data f = { f with acc := f.acc.pushAll data } := by
  induction data generalizing f with
  | nil => rfl
  | cons b data ih =>
    simp only [List.length_cons] at h
    have hb : feedByte cb f b = { f with acc := f.acc.push b } := by
      simp [feedByte, handOver_notFull cb f (by omega)]
    rw [feed_cons, hb, ih _ (by simp; omega)]
    rfl

/-- One turn of the loop of R102: a waiting full block is handed over, then `n = min(width - pos, len)` bytes are stored at
once; the model's byte-by-byte `feed` takes the same turn. -/
theorem feed_turn (cb : Callback c) (data : List Byte) (f : Feeding c width) (hw : 0 < width) (hp : f.acc.pos ≤ width)
    (hd : data ≠ []) :
    feed cb data f =
      feed cb (data.drop (min (width - (handOver cb f).acc.pos) data.length))
        { handOver cb f with
          acc := (handOver cb f).acc.pushAll (data.take (min (width - (handOver cb f).acc.pos) data.length)) } := by
  have hlt := handOver_pos_lt cb f hw hp
  have hstart : feed cb data f = feed cb data (handOver cb f) := by
    obtain ⟨b, rest, rfl⟩ := List.exists_cons_of_ne_nil hd
    rw [feed_cons, feed_cons, feedByte, feedByte, handOver_notFull cb (handOver cb f) (by omega)]
  rw [hstart]
  generalize handOver cb f = g at hlt ⊢
  generalize hn : min (width - g.acc.pos) data.length = n
  conv => lhs; rw [← List.take_append_drop n data]
  rw [feed, List.foldl_append, ← feed, ← feed, feed_fits cb _ g (by simp; omega)]

end Sys2Proof.Machine
end

