-- ==== Sys2Proof/Laws/State.lean ====
section
/-! SUPPORT. One lemma per field per update of the state and of the engine, so that no later proof unfolds a record update,
and the invariance of the accumulator's empty value. -/

namespace Sys2Proof.Machine

variable {c : Cfg}

-- The empty accumulator
@[simp] theorem Acc.empty_pos (w : Nat) : (Acc.empty w).pos = 0 := rfl
@[simp] theorem Acc.empty_buf (w : Nat) : (Acc.empty w).buf = Vector.replicate w 0#8 := rfl
@[simp] theorem Acc.empty_content (w : Nat) : (Acc.empty w).content = [] := rfl

-- The engine at reset
@[simp] theorem Engine.reset_S : (Engine.reset c).S = Vector.replicate c.N 0#c.W := rfl
@[simp] theorem Engine.reset_K : (Engine.reset c).K = Vector.replicate c.KEY_LEN 0#8 := rfl
@[simp] theorem Engine.reset_phase : (Engine.reset c).phase = .idle := rfl
@[simp] theorem Engine.reset_void : (Engine.reset c).void = false := rfl
@[simp] theorem Engine.reset_dir : (Engine.reset c).dir = .none := rfl
@[simp] theorem Engine.reset_aad : (Engine.reset c).aad = Acc.empty c.AAD_WIDTH := rfl
@[simp] theorem Engine.reset_pay : (Engine.reset c).pay = Acc.empty c.PAY_WIDTH := rfl

-- Accepting a command
variable (s : State) (t : Transaction) (rest : List HostEvent)
@[simp] theorem State.accept_engine : (s.accept t rest).engine = s.engine := rfl
@[simp] theorem State.accept_din : (s.accept t rest).din = t.din := rfl
@[simp] theorem State.accept_input : (s.accept t rest).input = rest := rfl
@[simp] theorem State.accept_output : (s.accept t rest).output = s.output := rfl

-- Completing a command
variable (r : Reply Config.cfg)
@[simp] theorem State.complete_engine : (s.complete r).engine = r.engine := rfl
@[simp] theorem State.complete_din : (s.complete r).din = [] := rfl
@[simp] theorem State.complete_input : (s.complete r).input = s.input := rfl
@[simp] theorem State.complete_output : (s.complete r).output = s.output ++ [r.response] := rfl

-- The response of a reply
variable (q : Reply c)
@[simp] theorem Reply.response_err : q.response.err = q.err := rfl
@[simp] theorem Reply.response_void : q.response.void = q.engine.void := rfl
@[simp] theorem Reply.response_phase : q.response.phase = q.engine.phase := rfl
@[simp] theorem Reply.response_matched : q.response.matched = q.matched := rfl
@[simp] theorem Reply.response_dir : q.response.dir = q.engine.dir := rfl
@[simp] theorem Reply.response_dout : q.response.dout = q.dout := rfl

-- A command that succeeds
variable (e : Engine c) (d : List Byte)
@[simp] theorem succeed_engine : (succeed e d).engine = e := rfl
@[simp] theorem succeed_err : (succeed e d).err = .none := rfl
@[simp] theorem succeed_matched : (succeed e d).matched = false := rfl
@[simp] theorem succeed_dout : (succeed e d).dout = d := rfl

-- Error entry
variable (err : ErrCode)
@[simp] theorem raise_err : (raise err e).err = err := rfl
@[simp] theorem raise_matched : (raise err e).matched = false := rfl
@[simp] theorem raise_dout : (raise err e).dout = [] := rfl
@[simp] theorem raise_S : (raise err e).engine.S = e.S := rfl
@[simp] theorem raise_K : (raise err e).engine.K = e.K := rfl
@[simp] theorem raise_phase : (raise err e).engine.phase = e.phase := rfl
@[simp] theorem raise_dir : (raise err e).engine.dir = e.dir := rfl
@[simp] theorem raise_aad : (raise err e).engine.aad = e.aad := rfl
@[simp] theorem raise_pay : (raise err e).engine.pay = e.pay := rfl
@[simp] theorem raise_void : (raise err e).engine.void = (e.void || decide (e.phase ≠ .idle)) := rfl

-- Release
@[simp] theorem released_S : (released e).S = Vector.replicate c.N 0#c.W := rfl
@[simp] theorem released_K : (released e).K = Vector.replicate c.KEY_LEN 0#8 := rfl
@[simp] theorem released_phase : (released e).phase = .idle := rfl
@[simp] theorem released_void : (released e).void = false := rfl
@[simp] theorem released_dir : (released e).dir = .none := rfl
@[simp] theorem released_aad : (released e).aad = Acc.empty c.AAD_WIDTH := rfl
@[simp] theorem released_pay : (released e).pay = Acc.empty c.PAY_WIDTH := rfl

/-- What `RELEASE` and the reset event leave does not depend on what was there. -/
theorem released_eq_reset : released e = Engine.reset c := rfl

-- The reset event
@[simp] theorem State.resetEvent_engine : (s.resetEvent rest).engine = Engine.reset Config.cfg := rfl
@[simp] theorem State.resetEvent_din : (s.resetEvent rest).din = s.din := rfl
@[simp] theorem State.resetEvent_input : (s.resetEvent rest).input = rest := rfl
@[simp] theorem State.resetEvent_output : (s.resetEvent rest).output = s.output := rfl

end Sys2Proof.Machine
end

