-- ==== Sys2Proof/Laws/Perform.lean ====
section
/-! SUPPORT. What every command does, said once: the outcome of `exec` and of `step`, the prologue, and the reply of each
command as one function of the instruction. -/

namespace Sys2Proof.Machine

/-- The reply of the instruction under the configuration `c`: the function each arm of `exec` runs. -/
def perform (c : Cfg) (i : Instr) (din : List Byte) (e : Engine c) : Reply c :=
  match i with
  | .construct klen nlen => constructCommand c klen nlen din e
  | .ingestAad len => ingestAadCommand c len din e
  | .encrypt len => encryptCommand c len din e
  | .decrypt len => decryptCommand c len din e
  | .finish => finishCommand c e
  | .authenticate => authenticateCommand c e
  | .verify len => verifyCommand c len din e
  | .release => releaseCommand c e

theorem exec_eq (i : Instr) (s : State) :
    exec i s =
      if s.din.length = dinLength i then .next (s.complete (perform Config.cfg i s.din s.engine))
      else .refused .dinLengthMismatch := by
  cases i <;> rfl

theorem exec_of_din {i : Instr} {s : State} (h : s.din.length = dinLength i) :
    exec i s = .next (s.complete (perform Config.cfg i s.din s.engine)) := by
  rw [exec_eq, if_pos h]

/-- Everything `exec` can do when it answers a next state. -/
theorem exec_next {i : Instr} {s t : State} (h : exec i s = .next t) :
    s.din.length = dinLength i ∧ t = s.complete (perform Config.cfg i s.din s.engine) := by
  rw [exec_eq] at h
  split at h
  · exact ⟨‹_›, by cases h; rfl⟩
  · cases h

/-- Everything `step` can do when it answers a next state. -/
theorem step_next {s t : State} (h : step s = .next t) :
    (s.input = [] ∧ t = s) ∨
    (∃ rest, s.input = .reset :: rest ∧ t = s.resetEvent rest) ∨
    (∃ tr rest i, s.input = .command tr :: rest ∧ decode tr.cmd = .ok i ∧ exec i (s.accept tr rest) = .next t) ∨
    (∃ tr rest err, s.input = .command tr :: rest ∧ decode tr.cmd = .error err ∧
      t = illegalCommand (s.accept tr rest)) := by
  unfold step nextEvent at h
  rcases hin : s.input with _ | ⟨ev, rest⟩
  · rw [hin] at h
    exact .inl ⟨rfl, by cases h; rfl⟩
  · rw [hin] at h
    cases ev with
    | reset => exact .inr (.inl ⟨rest, rfl, by cases h; rfl⟩)
    | command tr =>
      dsimp only at h
      split at h
      · exact .inr (.inr (.inl ⟨tr, rest, _, rfl, ‹_›, h⟩))
      · exact .inr (.inr (.inr ⟨tr, rest, _, rfl, ‹_›, by cases h; rfl⟩))

/-- The prologue: a permitted command goes on, any other ends in `ProtocolViolation`. -/
theorem guarded_cases {c : Cfg} (i : Instr) (e : Engine c) (body : Reply c) :
    (permitted i e = true ∧ guarded i e body = body) ∨
      (permitted i e = false ∧ guarded i e body = raise .protocolViolation e) := by
  unfold guarded
  cases permitted i e <;> simp

theorem permitted_release {c : Cfg} (e : Engine c) : permitted .release e = true := rfl

theorem permitted_eq {c : Cfg} {i : Instr} (e : Engine c) (h : i ≠ .release) :
    permitted i e = (!e.void && phaseLegal i e.phase e.dir) := by
  cases i <;> first | rfl | exact absurd rfl h

theorem guarded_ok {c : Cfg} {i : Instr} {e : Engine c} {body : Reply c} (h : permitted i e = true) :
    guarded i e body = body := if_pos h

theorem guarded_no {c : Cfg} {i : Instr} {e : Engine c} {body : Reply c} (h : permitted i e = false) :
    guarded i e body = raise .protocolViolation e := by
  simp [guarded, h]

theorem perform_no {c : Cfg} {i : Instr} {din : List Byte} {e : Engine c} (h : permitted i e = false) :
    perform c i din e = raise .protocolViolation e := by
  cases i <;> exact guarded_no h

-- What each command does once it is permitted and its lengths are the configured ones.

theorem perform_construct {c : Cfg} {klen nlen : Nat} {din : List Byte} {e : Engine c}
    (hp : permitted (.construct klen nlen) e = true) (hk : klen = c.KEY_LEN) (hn : nlen = c.NONCE_LEN) :
    perform c (.construct klen nlen) din e =
      succeed
        { e with
          S := constructedState c (keyOperand c din) (nonceOperand c klen din)
          K := keyOperand c din
          dir := .none
          aad := { e.aad with pos := 0 }
          pay := { e.pay with pos := 0 }
          phase := .absorbingAad }
        [] := by
  have h : perform c (.construct klen nlen) din e = _ := guarded_ok hp
  rwa [if_neg (by simp [hk]), if_neg (by simp [hn])] at h

theorem perform_ingestAad {c : Cfg} {len : Nat} {din : List Byte} {e : Engine c}
    (hp : permitted (.ingestAad len) e = true) :
    perform c (.ingestAad len) din e = succeed (feedAad c din e) [] := guarded_ok hp

theorem perform_encrypt {c : Cfg} {len : Nat} {din : List Byte} {e : Engine c}
    (hp : permitted (.encrypt len) e = true) : perform c (.encrypt len) din e = payload c .enc din e := guarded_ok hp

theorem perform_decrypt {c : Cfg} {len : Nat} {din : List Byte} {e : Engine c}
    (hp : permitted (.decrypt len) e = true) : perform c (.decrypt len) din e = payload c .dec din e := guarded_ok hp

theorem perform_finish {c : Cfg} {din : List Byte} {e : Engine c} (hp : permitted .finish e = true) :
    perform c .finish din e =
      succeed
        { (flushPay c (if e.phase = .absorbingAad then flushAad c e else e)).1 with phase := .finalized }
        (flushPay c (if e.phase = .absorbingAad then flushAad c e else e)).2 := guarded_ok hp

theorem perform_authenticate {c : Cfg} {din : List Byte} {e : Engine c} (hp : permitted .authenticate e = true) :
    perform c .authenticate din e = succeed (tagged c e) (tagOf c e).toList := guarded_ok hp

theorem perform_verify {c : Cfg} {len : Nat} {din : List Byte} {e : Engine c}
    (hp : permitted (.verify len) e = true) (hl : len = c.TAG_LEN) :
    perform c (.verify len) din e = { succeed (tagged c e) [] with matched := ctEq (tagOf c e).toList din } := by
  have h : perform c (.verify len) din e = _ := guarded_ok hp
  rwa [if_neg (by simp [hl])] at h

theorem perform_release {c : Cfg} {din : List Byte} {e : Engine c} :
    perform c .release din e = succeed (Engine.reset c) [] := rfl

/-- Everything a command can do: one of the four errors of R192 to R195, or success of a permitted command with the
configured lengths. -/
theorem perform_cases {c : Cfg} (i : Instr) (din : List Byte) (e : Engine c) (P : Reply c → Prop)
    (violation : permitted i e = false → P (raise .protocolViolation e))
    (badKey : ∀ klen nlen, i = .construct klen nlen → permitted i e = true → klen ≠ c.KEY_LEN →
      P (raise .invalidKeyLength e))
    (badNonce : ∀ klen nlen, i = .construct klen nlen → permitted i e = true → klen = c.KEY_LEN → nlen ≠ c.NONCE_LEN →
      P (raise .invalidNonceLength e))
    (badTag : ∀ len, i = .verify len → permitted i e = true → len ≠ c.TAG_LEN → P (raise .invalidTagLength e))
    (success : permitted i e = true → (∀ klen nlen, i = .construct klen nlen → klen = c.KEY_LEN ∧ nlen = c.NONCE_LEN) →
      (∀ len, i = .verify len → len = c.TAG_LEN) → (perform c i din e).err = .none → P (perform c i din e)) :
    P (perform c i din e) := by
  cases hp : permitted i e
  · rw [perform_no hp]
    exact violation hp
  · cases i with
    | construct klen nlen =>
      have h : perform c (.construct klen nlen) din e = _ := guarded_ok hp
      by_cases hk : klen = c.KEY_LEN
      · by_cases hn : nlen = c.NONCE_LEN
        · exact success hp (fun _ _ h => by cases h; exact ⟨hk, hn⟩) (by simp) (by rw [perform_construct hp hk hn]; rfl)
        · rw [if_neg (by simp [hk]), if_pos hn] at h
          rw [h]
          exact badNonce klen nlen rfl hp hk hn
      · rw [if_pos hk] at h
        rw [h]
        exact badKey klen nlen rfl hp hk
    | verify len =>
      have h : perform c (.verify len) din e = _ := guarded_ok hp
      by_cases hl : len = c.TAG_LEN
      · exact success hp (by simp) (fun _ h => by cases h; exact hl) (by rw [perform_verify hp hl]; rfl)
      · rw [if_pos hl] at h
        rw [h]
        exact badTag len rfl hp hl
    | ingestAad len => exact success hp (by simp) (by simp) (by rw [perform_ingestAad hp]; rfl)
    | encrypt len => exact success hp (by simp) (by simp) (by rw [perform_encrypt hp]; rfl)
    | decrypt len => exact success hp (by simp) (by simp) (by rw [perform_decrypt hp]; rfl)
    | finish => exact success hp (by simp) (by simp) (by rw [perform_finish hp]; rfl)
    | authenticate => exact success hp (by simp) (by simp) (by rw [perform_authenticate hp]; rfl)
    | release => exact success hp (by simp) (by simp) rfl

/-- A permitted command but `RELEASE` runs with `VOID = 0`, in a phase that the table admits. -/
theorem permitted_facts {c : Cfg} {i : Instr} {e : Engine c} (hi : i ≠ .release) (hp : permitted i e = true) :
    e.void = false ∧ phaseLegal i e.phase e.dir = true := by
  rw [permitted_eq _ hi] at hp
  simpa using hp

end Sys2Proof.Machine
end

