-- ==== Sys2Proof/Laws/Answer.lean ====
section
/-! SUPPORT. What it means that a command was answered, once for all commands: the response is the one `exec` appended, and
error entry is `Engine.afterError`. -/

namespace Sys2Proof.Machine

theorem answered_complete (s : State) (q : Reply Config.cfg) : Answered s (s.complete q) q.response :=
  ⟨rfl, rfl, rfl, rfl, rfl, rfl⟩

theorem Answered.eq_response {s : State} {q : Reply Config.cfg} {r : Response} (h : Answered s (s.complete q) r) :
    r = q.response := by
  have := h.output
  simpa [State.complete] using this.symm

/-- An answered command: its `DIN` had the declared length, the state after it and the response are those of its reply. -/
theorem exec_answered {i : Instr} {s t : State} {r : Response} (h : exec i s = .next t) (ha : Answered s t r) :
    s.din.length = dinLength i ∧ t = s.complete (perform Config.cfg i s.din s.engine) ∧
      r = (perform Config.cfg i s.din s.engine).response := by
  obtain ⟨hd, rfl⟩ := exec_next h
  exact ⟨hd, rfl, ha.eq_response⟩

theorem raise_engine {c : Cfg} (err : ErrCode) (e : Engine c) : (raise err e).engine = e.afterError := by
  unfold raise Engine.afterError
  by_cases h : e.phase = .idle <;> simp [h]

theorem afterError_idle {c : Cfg} (e : Engine c) (h : e.phase = .idle) : e.afterError = e := by
  unfold Engine.afterError
  rw [if_pos h]

theorem afterError_void {c : Cfg} (e : Engine c) (h : e.void = true) : e.afterError = e := by
  unfold Engine.afterError
  cases e
  simp_all

end Sys2Proof.Machine
end

