-- ==== Sys2Proof/Laws/Word.lean ====
section
/-! SUPPORT. The small lemmas of `vec`. -/

namespace Sys2Proof

@[simp] theorem vec_getElem {α : Type} {n : Nat} (f : Fin n → α) (i : Nat) (h : i < n) : (vec f)[i] = f ⟨i, h⟩ := by
  simp [vec]

@[simp] theorem vec_getElem_fin {α : Type} {n : Nat} (f : Fin n → α) (i : Fin n) : (vec f)[i] = f i := by
  simp

theorem vec_eq_ofFn {α : Type} {n : Nat} (f : Fin n → α) : vec f = Vector.ofFn f := by
  ext i h
  simp

theorem vec_toList {α : Type} {n : Nat} (f : Fin n → α) : (vec f).toList = List.ofFn f := by
  simp [vec, Vector.toList]

/-- Bit `j` of a word rotated right. -/
theorem rotateRight_bit (W : Nat) (w : BitVec W) (n j : Nat) (hW : 0 < W) (hj : j < W) :
    (w.rotateRight n).getLsbD j = w.getLsbD ((j + n) % W) := by
  rw [BitVec.getLsbD_rotateRight]
  have hm := Nat.mod_lt n hW
  rw [← Nat.add_mod_mod j n W]
  generalize n % W = m at hm ⊢
  by_cases hs : j < W - m
  · rw [Nat.mod_eq_of_lt (by omega : j + m < W)]
    simp [hs, Nat.add_comm]
  · rw [Nat.mod_eq_sub_mod (by omega), Nat.mod_eq_of_lt (by omega)]
    simp [hj, hs]
    congr 1
    omega

end Sys2Proof
end

