-- ==== Sys2Proof/Laws/Bytes.lean ====
section
/-! SUPPORT. The small lemmas of byte strings and rate words. -/

namespace Sys2Proof.Machine

variable {c : Cfg}

theorem Cfg_W_eq (c : Cfg) : c.W = 8 * c.B := (Nat.mul_div_cancel' c.W_bytes).symm

theorem Cfg_B_pos (c : Cfg) : 0 < c.B := by
  have := c.W_pos
  have := Cfg_W_eq c
  omega

@[simp] theorem zeros_length (n : Nat) : (zeros n).length = n := by simp [zeros]

@[simp] theorem xorStrings_length (a b : List Byte) : (xorStrings a b).length = min a.length b.length := by
  simp [xorStrings]

theorem xorStrings_cancel (r d : List Byte) (h : r.length = d.length) : xorStrings r (xorStrings r d) = d := by
  induction r generalizing d with
  | nil => cases d <;> simp_all [xorStrings]
  | cons x xs ih =>
    cases d with
    | nil => simp at h
    | cons y ys =>
      have := ih ys (by simpa using h)
      simp only [xorStrings, List.zipWith_cons_cons, List.cons.injEq] at this ⊢
      exact ⟨by rw [← BitVec.xor_assoc, BitVec.xor_self, BitVec.zero_xor], this⟩

theorem takeBytes_toList (d : List Byte) (start n : Nat) (h : start + n ≤ d.length) :
    (takeBytes d start n).toList = (d.drop start).take n := by
  apply List.ext_getElem
  · simp
    omega
  · intro i h1 h2
    simp only [Vector.length_toList] at h1
    simp [takeBytes, List.getD_eq_getElem?_getD, List.getElem?_eq_getElem (show start + i < d.length by omega)]

@[simp] theorem storeWord_length (c : Cfg) (w : BitVec c.W) : (storeWord c w).length = c.B := by
  unfold storeWord
  split <;> simp

@[simp] theorem rateBlock_length (c : Cfg) (d : List Byte) (i : Nat) : (rateBlock c d i).length = c.B := by
  simp [rateBlock]

theorem xorBytes_capacity (S : c.Perm) (d : List Byte) (i : Fin c.N) (h : c.R_WORDS ≤ i.val) :
    (xorBytes c S d)[i] = S[i] := by
  simp [xorBytes, show ¬ i.val < c.R_WORDS by omega]

theorem xorBytes_rate (S : c.Perm) (d : List Byte) (i : Fin c.N) (h : i.val < c.R_WORDS) :
    (xorBytes c S d)[i] = S[i] ^^^ loadWord c (rateBlock c d i.val) := by
  simp [xorBytes, h]

@[simp] theorem xorState_getElem {W N : Nat} (S M : Words W N) (i : Nat) (h : i < N) :
    (xorState S M)[i] = S[i] ^^^ M[i] := by
  simp [xorState]

/-- The length of pieces of equal length put together. -/
theorem flatMap_length {α : Type} (f : α → List Byte) (B : Nat) (l : List α) (h : ∀ a ∈ l, (f a).length = B) :
    (l.flatMap f).length = l.length * B := by
  induction l with
  | nil => simp
  | cons a l ih =>
    simp only [List.flatMap_cons, List.length_append, List.length_cons]
    rw [ih (fun x hx => h x (by simp [hx])), h a (by simp), Nat.add_mul]
    omega

/-- Byte `k` of pieces of equal length put together is byte `k mod B` of piece `k div B`. -/
theorem flatMap_get {α : Type} (f : α → List Byte) (B : Nat) (hB : 0 < B) (l : List α)
    (h : ∀ a ∈ l, (f a).length = B) (k : Nat) (hk : k / B < l.length) :
    (l.flatMap f)[k]? = (f l[k / B])[k % B]? := by
  induction l generalizing k with
  | nil => simp at hk
  | cons a l ih =>
    simp only [List.flatMap_cons]
    by_cases hlt : k < B
    · rw [List.getElem?_append_left (by rw [h a (by simp)]; exact hlt)]
      simp [Nat.div_eq_of_lt hlt, Nat.mod_eq_of_lt hlt]
    · have hk2 : k / B = (k - B) / B + 1 := by
        rw [Nat.div_eq k B, if_pos ⟨hB, by omega⟩]
      rw [List.getElem?_append_right (by rw [h a (by simp)]; omega), h a (by simp),
        ih (fun x hx => h x (by simp [hx])) (k - B) (by rw [hk2] at hk; simpa using hk)]
      simp only [hk2, List.getElem_cons_succ]
      rw [← Nat.mod_eq_sub_mod (by omega)]

@[simp] theorem rateBytes_length (c : Cfg) (S : c.Perm) : (rateBytes c S).length = c.R_WORDS * c.B := by
  unfold rateBytes
  rw [flatMap_length _ c.B _ (fun _ _ => storeWord_length c _)]
  have := c.R_WORDS_lt
  simp
  omega

theorem PAY_WIDTH_le_rate (c : Cfg) : c.PAY_WIDTH ≤ c.R_WORDS * c.B := c.PAY_WIDTH_rate

theorem AAD_WIDTH_le_rate (c : Cfg) : c.AAD_WIDTH ≤ c.R_WORDS * c.B := c.AAD_WIDTH_rate

end Sys2Proof.Machine
end

