-- ==== Sys2Proof/Laws/Commands.lean ====
section
/-! SUPPORT. One lemma per field that a flush, a feed, the entry to the payload and the tag leave, so that no later proof
unfolds them. -/

namespace Sys2Proof.Machine

variable {c : Cfg} (e : Engine c) (d : Dir) (data : List Byte)

-- The AAD flush: what it writes is `S` and the accumulator.
@[simp] theorem flushAad_K : (flushAad c e).K = e.K := rfl
@[simp] theorem flushAad_phase : (flushAad c e).phase = e.phase := rfl
@[simp] theorem flushAad_void : (flushAad c e).void = e.void := rfl
@[simp] theorem flushAad_dir : (flushAad c e).dir = e.dir := rfl
@[simp] theorem flushAad_aad : (flushAad c e).aad = Acc.empty c.AAD_WIDTH := rfl
@[simp] theorem flushAad_pay : (flushAad c e).pay = e.pay := rfl

-- The payload flush
@[simp] theorem flushPay_K : (flushPay c e).1.K = e.K := rfl
@[simp] theorem flushPay_phase : (flushPay c e).1.phase = e.phase := rfl
@[simp] theorem flushPay_void : (flushPay c e).1.void = e.void := rfl
@[simp] theorem flushPay_dir : (flushPay c e).1.dir = e.dir := rfl
@[simp] theorem flushPay_aad : (flushPay c e).1.aad = e.aad := rfl
@[simp] theorem flushPay_pay : (flushPay c e).1.pay = Acc.empty c.PAY_WIDTH := rfl

-- Feeding associated data
@[simp] theorem feedAad_K : (feedAad c data e).K = e.K := rfl
@[simp] theorem feedAad_phase : (feedAad c data e).phase = e.phase := rfl
@[simp] theorem feedAad_void : (feedAad c data e).void = e.void := rfl
@[simp] theorem feedAad_dir : (feedAad c data e).dir = e.dir := rfl
@[simp] theorem feedAad_pay : (feedAad c data e).pay = e.pay := rfl

-- Feeding payload
@[simp] theorem feedPay_K : (feedPay c d data e).1.K = e.K := rfl
@[simp] theorem feedPay_phase : (feedPay c d data e).1.phase = e.phase := rfl
@[simp] theorem feedPay_void : (feedPay c d data e).1.void = e.void := rfl
@[simp] theorem feedPay_dir : (feedPay c d data e).1.dir = e.dir := rfl
@[simp] theorem feedPay_aad : (feedPay c d data e).1.aad = e.aad := rfl

-- Entering the payload phase
theorem enterPayload_aadPhase (h : e.phase = .absorbingAad) :
    enterPayload c d e = { flushAad c e with phase := .absorbingPayload, dir := d } := if_pos h
theorem enterPayload_other (h : e.phase ≠ .absorbingAad) : enterPayload c d e = e := if_neg h
@[simp] theorem enterPayload_K : (enterPayload c d e).K = e.K := by unfold enterPayload; split <;> rfl
@[simp] theorem enterPayload_void : (enterPayload c d e).void = e.void := by unfold enterPayload; split <;> rfl
@[simp] theorem enterPayload_pay : (enterPayload c d e).pay = e.pay := by unfold enterPayload; split <;> rfl

-- The tag
@[simp] theorem tagged_S : (tagged c e).S = tagState c e := rfl
@[simp] theorem tagged_K : (tagged c e).K = Vector.replicate c.KEY_LEN 0#8 := rfl
@[simp] theorem tagged_phase : (tagged c e).phase = .tagged := rfl
@[simp] theorem tagged_void : (tagged c e).void = e.void := rfl
@[simp] theorem tagged_dir : (tagged c e).dir = e.dir := rfl
@[simp] theorem tagged_aad : (tagged c e).aad = e.aad := rfl
@[simp] theorem tagged_pay : (tagged c e).pay = e.pay := rfl

end Sys2Proof.Machine
end

