-- ==== Sys2Proof/Laws/Encode.lean ====
section
/-! SUPPORT. The fields of a command word as numbers, the encoded words as numbers, and the cases of the decoder. -/

namespace Sys2Proof

theorem toNat_append_word {a b : Nat} (x : BitVec a) (y : BitVec b) : (x ++ y).toNat = x.toNat * 2 ^ b + y.toNat := by
  rw [BitVec.toNat_append, Nat.shiftLeft_eq, Nat.mul_comm, ← Nat.two_pow_add_eq_or_of_lt y.isLt, Nat.mul_comm]

theorem encodeK_toNat (op : Byte) (k n : Nat) (hk : k < 256) (hn : n < 256) :
    (encodeK op k n).toNat = op.toNat * 16777216 + k * 256 + n := by
  unfold encodeK
  rw [toNat_append_word, toNat_append_word, toNat_append_word]
  simp [Nat.mod_eq_of_lt hk, Nat.mod_eq_of_lt hn]
  omega

theorem encodeL_toNat (op : Byte) (l : Nat) (hl : l < 65536) : (encodeL op l).toNat = op.toNat * 16777216 + l := by
  unfold encodeL
  rw [toNat_append_word, toNat_append_word]
  simp [Nat.mod_eq_of_lt hl]
  omega

theorem encodeZ_toNat (op : Byte) : (encodeZ op).toNat = op.toNat * 16777216 := by
  unfold encodeZ
  rw [toNat_append_word]
  simp

theorem opField_eq (w : CmdWord) : opField w = w.toNat / 16777216 % 256 := by
  simp [opField, BitVec.extractLsb'_toNat, Nat.shiftRight_eq_div_pow]

theorem reservedField_eq (w : CmdWord) : reservedField w = w.toNat / 65536 % 256 := by
  simp [reservedField, BitVec.extractLsb'_toNat, Nat.shiftRight_eq_div_pow]

theorem klenField_eq (w : CmdWord) : klenField w = w.toNat / 256 % 256 := by
  simp [klenField, BitVec.extractLsb'_toNat, Nat.shiftRight_eq_div_pow]

theorem nlenField_eq (w : CmdWord) : nlenField w = w.toNat % 256 := by
  simp [nlenField, BitVec.extractLsb'_toNat]

theorem lenField_eq (w : CmdWord) : lenField w = w.toNat % 65536 := by
  simp [lenField, BitVec.extractLsb'_toNat]

/-- Everything the decoder can answer when it accepts a word. -/
theorem decode_ok {w : CmdWord} {i : Instr} (h : decode w = .ok i) :
    reservedField w = 0 ∧
      ((opField w = 1 ∧ i = .construct (klenField w) (nlenField w)) ∨
        (opField w = 2 ∧ i = .ingestAad (lenField w)) ∨ (opField w = 3 ∧ i = .encrypt (lenField w)) ∨
        (opField w = 4 ∧ i = .decrypt (lenField w)) ∨ (opField w = 5 ∧ lenField w = 0 ∧ i = .finish) ∨
        (opField w = 6 ∧ lenField w = 0 ∧ i = .authenticate) ∨ (opField w = 7 ∧ i = .verify (lenField w)) ∨
        (opField w = 8 ∧ lenField w = 0 ∧ i = .release)) := by
  unfold decode decodeZ at h
  split at h
  · cases h
  rename_i hr
  refine ⟨by simpa using hr, ?_⟩
  split at h <;> (try split at h) <;> simp_all

/-- What the decoder gives fits its fields. -/
theorem decode_fields_lt (w : CmdWord) : klenField w < 256 ∧ nlenField w < 256 ∧ lenField w < 65536 := by
  rw [klenField_eq, nlenField_eq, lenField_eq]
  omega

end Sys2Proof
end

