-- ==== Sys2Proof/Laws/PerInstr.lean ====
section
/-! SUPPORT. Statements made per instruction. -/

namespace Sys2Proof.Laws.DeclaredLength

/-- The word of a well-formed instruction declares at most 65535 input bytes (spec/30_encoding.md R70 to R73). -/
def Statement (i : Instr) : Prop := i.WellFormed → Machine.dinLength i ≤ 65535

theorem construct (klen nlen : Nat) : Statement (.construct klen nlen) := by
  intro h
  simp only [Instr.WellFormed, Instr.wellFormed, Bool.and_eq_true, decide_eq_true_eq] at h
  simp only [Machine.dinLength]
  omega

theorem ingestAad (len : Nat) : Statement (.ingestAad len) := by
  intro h
  simp only [Instr.WellFormed, Instr.wellFormed, decide_eq_true_eq] at h
  simp only [Machine.dinLength]
  omega

theorem encrypt (len : Nat) : Statement (.encrypt len) := by
  intro h
  simp only [Instr.WellFormed, Instr.wellFormed, decide_eq_true_eq] at h
  simp only [Machine.dinLength]
  omega

theorem decrypt (len : Nat) : Statement (.decrypt len) := by
  intro h
  simp only [Instr.WellFormed, Instr.wellFormed, decide_eq_true_eq] at h
  simp only [Machine.dinLength]
  omega

theorem finish : Statement .finish := fun _ => Nat.zero_le _

theorem authenticate : Statement .authenticate := fun _ => Nat.zero_le _

theorem verify (len : Nat) : Statement (.verify len) := by
  intro h
  simp only [Instr.WellFormed, Instr.wellFormed, decide_eq_true_eq] at h
  simp only [Machine.dinLength]
  omega

theorem release : Statement .release := fun _ => Nat.zero_le _

end Sys2Proof.Laws.DeclaredLength
end

