-- ==== Sys2Proof/Laws/Run.lean ====
section
/-! SUPPORT. The small lemmas of runs: the first state of a trajectory, its unfolding where a step answers, and what one
presented command of a run does to the port. -/

namespace Sys2Proof.Machine

@[simp] theorem runStart_input (cmds : List Transaction) : (runStart cmds).input = cmds.map .command := rfl
@[simp] theorem runStart_output (cmds : List Transaction) : (runStart cmds).output = [] := rfl
@[simp] theorem runStart_engine (cmds : List Transaction) : (runStart cmds).engine = Engine.reset Config.cfg := rfl

theorem trajectory_next {s t : State} (n : Nat) (h : step s = .next t) :
    trajectory (n + 1) s = s :: trajectory n t := by
  simp [trajectory, h]

@[simp] theorem trajectory_first (n : Nat) (s : State) : (trajectory n s)[0]? = some s := by
  cases n <;> simp [trajectory]

/-- A well-formed command that decodes is executed and answered; it leaves the rest of the list. -/
theorem step_decoded {s : State} {x : Transaction} {rest : List HostEvent} {i : Instr}
    (hin : s.input = .command x :: rest) (hw : x.wellFormed = true) (hd : decode x.cmd = .ok i) :
    step s = .next ((s.accept x rest).complete (perform Config.cfg i x.din s.engine)) := by
  have hl : x.din.length = dinLength i := by simpa [Transaction.wellFormed, hd] using hw
  simp only [step, nextEvent, hin, hd]
  exact exec_of_din hl

/-- A word that does not decode is answered. -/
theorem step_undecoded {s : State} {x : Transaction} {rest : List HostEvent} {err : DecodeError}
    (hin : s.input = .command x :: rest) (hd : decode x.cmd = .error err) :
    step s = .next ((s.accept x rest).complete (raise .illegalCommand s.engine)) := by
  simp only [step, nextEvent, hin, hd]
  rfl

end Sys2Proof.Machine
end

