-- ==== Sys2Proof/Laws/Streams.lean ====
section
/-! SUPPORT. Counting the blocks of a stream, and feeding a stream in pieces: the arithmetic and the list facts behind the
claims about `Feed` (spec/40_accumulator.md R104, R105). -/

namespace Sys2Proof.Machine

variable {c : Cfg} {width : Nat}

/-- No block is handed over while the stream fits one. -/
theorem callsFor_small (width total : Nat) (h : total ≤ width) (hw : 0 < width) : callsFor width total = 0 := by
  unfold callsFor
  have : (total + width - 1) / width ≤ 1 := by
    rw [Nat.div_le_iff_le_mul_add_pred hw]
    omega
  omega

/-- Of a stream that is not empty, at least one byte and at most a block stays behind. -/
theorem callsFor_bounds (width total : Nat) (hw : 0 < width) (h : 1 ≤ total) :
    callsFor width total * width < total ∧ total ≤ callsFor width total * width + width := by
  unfold callsFor
  have h1 := Nat.div_add_mod (total + width - 1) width
  have h2 := Nat.mod_lt (total + width - 1) hw
  have h3 : 1 ≤ (total + width - 1) / width := by
    rw [Nat.le_div_iff_mul_le hw]
    omega
  generalize (total + width - 1) / width = q at *
  obtain ⟨q, rfl⟩ : ∃ p, q = p + 1 := ⟨q - 1, by omega⟩
  simp only [Nat.add_sub_cancel]
  rw [Nat.mul_add, Nat.mul_one, Nat.mul_comm] at h1
  omega

/-- One byte more hands over one block more exactly when a full block was waiting. -/
theorem callsFor_succ (width total : Nat) (hw : 0 < width) (h : 1 ≤ total) :
    callsFor width (total + 1) =
      if total = callsFor width total * width + width then callsFor width total + 1 else callsFor width total := by
  have h1 := callsFor_bounds width total hw h
  have h2 := callsFor_bounds width (total + 1) hw (by omega)
  generalize callsFor width total = a at *
  generalize callsFor width (total + 1) = b at *
  have h3 : ∀ x y : Nat, x + 1 ≤ y → x * width + width ≤ y * width := fun x y hxy => by
    have := Nat.mul_le_mul_right width hxy
    rwa [Nat.add_mul, Nat.one_mul] at this
  split
  · have hb : ¬ b ≤ a := fun hba => by
      have := Nat.mul_le_mul_right width hba
      omega
    have ha : ¬ a + 1 + 1 ≤ b := fun hab => by
      have := h3 (a + 1) b hab
      have := h3 a (a + 1) (by omega)
      omega
    omega
  · have hb : ¬ b + 1 ≤ a := fun hba => by
      have := h3 b a hba
      omega
    have ha : ¬ a + 1 ≤ b := fun hab => by
      have := h3 a b hab
      omega
    omega

theorem feed_snoc (cb : Callback c) (data : List Byte) (b : Byte) (f : Feeding c width) :
    feed cb (data ++ [b]) f = feedByte cb (feed cb data f) b := by
  simp [feed]

/-- What was emitted before a feed stays in front of what the feed emits, and has no other effect. -/
theorem feed_out_shift (cb : Callback c) (data : List Byte) (a : Acc width) (S : c.Perm) (out : List Byte) :
    feed cb data { acc := a, S := S, out := out } =
      { feed cb data { acc := a, S := S, out := [] } with
        out := out ++ (feed cb data { acc := a, S := S, out := [] }).out } := by
  induction data generalizing a S out with
  | nil => simp [feed]
  | cons b rest ih =>
    rw [feed_cons, feed_cons]
    by_cases h : a.pos = width
    · simp only [feedByte, handOver_full cb { acc := a, S := S, out := out } h,
        handOver_full cb { acc := a, S := S, out := [] } h]
      rw [ih, ih (out := [] ++ _)]
      simp
    · simp only [feedByte, handOver_notFull cb { acc := a, S := S, out := out } h,
        handOver_notFull cb { acc := a, S := S, out := [] } h]
      rw [ih]

theorem runBlocks_zero (cb : Callback c) (width : Nat) (M : List Byte) (p : c.Perm × List Byte) :
    runBlocks cb width 0 M p = p := rfl

theorem runBlocks_succ (cb : Callback c) (width k : Nat) (M : List Byte) (p : c.Perm × List Byte) :
    runBlocks cb width (k + 1) M p =
      ((cb ((M.drop (k * width)).take width) (runBlocks cb width k M p).1).1,
        (runBlocks cb width k M p).2 ++ (cb ((M.drop (k * width)).take width) (runBlocks cb width k M p).1).2) := by
  rw [runBlocks, List.range_succ, List.foldl_append, ← runBlocks]
  rfl

/-- Only the first `k` blocks matter. -/
theorem runBlocks_congr (cb : Callback c) (width k : Nat) (M M' : List Byte) (p : c.Perm × List Byte)
    (h : M.take (k * width) = M'.take (k * width)) : runBlocks cb width k M p = runBlocks cb width k M' p := by
  induction k with
  | zero => rfl
  | succ k ih =>
    rw [runBlocks_succ, runBlocks_succ]
    have h1 : M.take (k * width) = M'.take (k * width) := by
      have := congrArg (List.take (k * width)) h
      rwa [List.take_take, List.take_take, Nat.min_eq_left (by rw [Nat.add_mul]; omega)] at this
    have h2 : (M.drop (k * width)).take width = (M'.drop (k * width)).take width := by
      have := congrArg (List.drop (k * width)) h
      rw [List.drop_take, List.drop_take, Nat.add_mul] at this
      simpa using this
    rw [ih h1, h2]

end Sys2Proof.Machine
end

