-- ==== Sys2Proof/Tests/Configs.lean ====
section
/-! SUPPORT. The two evidence records of spec/95_test_vectors.md section 1, built as well-formed configurations. They are
no claim about the hardware: they let the operations, which take the configuration as an argument, be run on the
spec's vectors. -/

namespace Sys2Proof.Tests

open Sys2Proof.Machine

/-- Rotation right (00_scope.md R9). -/
def rot (w : BitVec 64) (n : Nat) : BitVec 64 := w.rotateRight n

/-- `RC[0..11]` of `CFG_REF` (95, section 1.1). -/
def rcTable : List (BitVec 64) := [0xf0, 0xe1, 0xd2, 0xc3, 0xb4, 0xa5, 0x96, 0x87, 0x78, 0x69, 0x5a, 0x4b]

/-- The five outputs of `Sub` of `CFG_REF` from its five inputs, for words and for single bits alike (95, section 1.1). -/
def subLanes {α : Type} (x a : α → α → α) (n : α → α) (v : Vector α 5) : Vector α 5 :=
  let x0 := x v[0] v[4]
  let x4 := x v[4] v[3]
  let x2 := x v[2] v[1]
  let x1 := v[1]
  let x3 := v[3]
  let y0 := x x0 (a (n x1) x2)
  let y1 := x x1 (a (n x2) x3)
  let y2 := x x2 (a (n x3) x4)
  let y3 := x x3 (a (n x4) x0)
  let y4 := x x4 (a (n x0) x1)
  #v[x y0 y4, x y1 y0, n y2, x y3 y2, y4]

/-- `Sub` of `CFG_REF`. -/
def subRef (S : Words 64 5) : Words 64 5 := subLanes (· ^^^ ·) (· &&& ·) (~~~ ·) S

/-- The rotation amounts of `Lin` of `CFG_REF`. -/
def linRot (i : Fin 5) : List Nat :=
  match i with
  | 0 => [19, 28]
  | 1 => [61, 39]
  | 2 => [1, 6]
  | 3 => [10, 17]
  | 4 => [7, 41]

/-- `Lin` of `CFG_REF`. -/
def linRef (S : Words 64 5) : Words 64 5 := vec fun i => (linRot i).foldl (fun w n => w ^^^ S[i].rotateRight n) S[i]

/-- The big- or little-endian word of eight key or nonce bytes. -/
def word8 (o : ByteOrder) (k : Vector Byte 16) (start : Nat) : BitVec 64 :=
  let d := (k.toList.drop start).take 8
  match o with
  | .be => concatBytes 64 d
  | .le => concatBytes 64 d.reverse

/-- The bytes of a word in an order. -/
def bytes8 (o : ByteOrder) (w : BitVec 64) : List Byte :=
  match o with
  | .be => (List.range 8).map fun j => w.extractLsb' (56 - 8 * j) 8
  | .le => (List.range 8).map fun j => w.extractLsb' (8 * j) 8

/-- What differs between `CFG_REF` and `CFG_B`. -/
structure Variant where
  rate : Nat
  aadWidth : Nat
  blockRounds : Fin 13
  order : ByteOrder
  marker : Byte
  iv : BitVec 64
  finalAt : Fin 2
  dsAad : BitVec 64
  dsPay : BitVec 64
  skipsPad : Bool
  lastPermutes : Bool
  rate_range : rate = 1 ∨ rate = 2
  aad_range : 1 ≤ aadWidth ∧ aadWidth ≤ rate * 8
  marker_ne : marker ≠ 0#8
  final_capacity : rate ≤ finalAt.val + 1

/-- The record of a variant (95, section 1). -/
def record (v : Variant) : Cfg where
  W := 64
  N := 5
  R_WORDS := v.rate
  AAD_WIDTH := v.aadWidth
  PAY_WIDTH := 8
  KEY_LEN := 16
  NONCE_LEN := 16
  TAG_LEN := 16
  ROUNDS_MAX := 12
  ROUNDS_INIT := 12
  ROUNDS_BLOCK := v.blockRounds
  ROUNDS_FINAL := 12
  RC_WORD := 2
  RoundConst := fun rounds i => rcTable.getD (12 - rounds.val + i.val) 0
  Sub := subRef
  Lin := linRef
  BYTE_ORDER := v.order
  PAD_MARKER := v.marker
  InitState := fun k n => #v[v.iv, word8 v.order k 0, word8 v.order k 8, word8 v.order n 0, word8 v.order n 8]
  KeyMaskInit := fun k => #v[0, 0, 0, word8 v.order k 0, word8 v.order k 8]
  KeyMaskFinal := fun k =>
    match v.finalAt with
    | 0 => #v[0, word8 v.order k 0, word8 v.order k 8, 0, 0]
    | 1 => #v[0, 0, word8 v.order k 0, word8 v.order k 8, 0]
  TagDerive := fun S k => vec fun i =>
    (bytes8 v.order (S[3] ^^^ word8 v.order k 0) ++ bytes8 v.order (S[4] ^^^ word8 v.order k 8)).getD i.val 0
  DS_AAD := #v[0, 0, 0, 0, v.dsAad]
  DS_PAY := #v[0, 0, 0, 0, v.dsPay]
  AAD_EMPTY_SKIPS_PAD := v.skipsPad
  PAY_LAST_PERMUTES := v.lastPermutes
  W_pos := by decide
  W_bytes := by decide
  N_min := by decide
  R_WORDS_pos := by rcases v.rate_range with h | h <;> omega
  R_WORDS_lt := by rcases v.rate_range with h | h <;> omega
  AAD_WIDTH_pos := v.aad_range.1
  AAD_WIDTH_field := by have := v.aad_range; rcases v.rate_range with h | h <;> omega
  AAD_WIDTH_rate := by have := v.aad_range; rcases v.rate_range with h | h <;> omega
  PAY_WIDTH_pos := by decide
  PAY_WIDTH_field := by decide
  PAY_WIDTH_rate := by rcases v.rate_range with h | h <;> omega
  KEY_LEN_pos := by decide
  KEY_LEN_field := by decide
  NONCE_LEN_pos := by decide
  NONCE_LEN_field := by decide
  TAG_LEN_pos := by decide
  TAG_LEN_field := by decide
  ROUNDS_MAX_pos := by decide
  PAD_MARKER_ne := v.marker_ne
  KeyMaskInit_rate := fun k i h => by
    have h2 : i.val < 2 := by rcases v.rate_range with hr | hr <;> omega
    rcases i with ⟨_ | _ | i, hi⟩
    · rfl
    · rfl
    · simp at h2
  KeyMaskFinal_rate := fun k i h => by
    have h2 := v.final_capacity
    have h3 : i.val < 2 := by rcases v.rate_range with hr | hr <;> omega
    rcases i with ⟨_ | _ | i, hi⟩
    · split <;> rfl
    · split
      · simp_all
        omega
      · rfl
    · simp at h3
  DS_AAD_rate := fun i h => by
    have h2 : i.val < 2 := by rcases v.rate_range with hr | hr <;> omega
    rcases i with ⟨_ | _ | i, hi⟩
    · rfl
    · rfl
    · simp at h2
  DS_PAY_rate := fun i h => by
    have h2 : i.val < 2 := by rcases v.rate_range with hr | hr <;> omega
    rcases i with ⟨_ | _ | i, hi⟩
    · rfl
    · rfl
    · simp at h2
  Sub_bitSliced := ⟨subLanes (· ^^ ·) (· && ·) (! ·), fun S j hj => by
    ext i hi
    simp [subRef, subLanes]
    rcases i with _ | _ | _ | _ | _ | i <;> simp_all⟩
  Lin_rotations := ⟨linRot, fun S i => by
    simp [linRef]⟩

/-- `CFG_REF` (95, section 1.1). -/
def cfgRef : Cfg := record
  { rate := 1, aadWidth := 8, blockRounds := 6, order := .be, marker := 0x80, iv := 0x80400c0600000000, finalAt := 0,
    dsAad := 1, dsPay := 0, skipsPad := true, lastPermutes := false,
    rate_range := by decide, aad_range := by decide, marker_ne := by decide, final_capacity := by decide }

/-- `CFG_B` (95, section 1.2). -/
def cfgB : Cfg := record
  { rate := 2, aadWidth := 16, blockRounds := 8, order := .le, marker := 1, iv := 0xb0b0b0b0, finalAt := 1,
    dsAad := 0x8000000000000000, dsPay := 0x4000000000000000, skipsPad := false, lastPermutes := true,
    rate_range := by decide, aad_range := by decide, marker_ne := by decide, final_capacity := by decide }

end Sys2Proof.Tests
end

