-- ==== Sys2Proof/Tests/Slice0.lean ====
section
/-! SUPPORT. Tests of the model on values written in the spec: ill-formed terms, command words written out bit by bit from
spec/30_encoding.md, and single steps and helper values from spec/95_test_vectors.md. -/

namespace Sys2Proof.Tests

open Sys2Proof.Machine

-- WellFormed: an ill-formed term for each check, and the largest well-formed operands (R71, R72).

theorem test_wellFormed_klen : Instr.wellFormed (.construct 256 16) = false := by decide
theorem test_wellFormed_nlen : Instr.wellFormed (.construct 16 256) = false := by decide
theorem test_wellFormed_ingestAad : Instr.wellFormed (.ingestAad 65536) = false := by decide
theorem test_wellFormed_encrypt : Instr.wellFormed (.encrypt 65536) = false := by decide
theorem test_wellFormed_decrypt : Instr.wellFormed (.decrypt 65536) = false := by decide
theorem test_wellFormed_verify : Instr.wellFormed (.verify 65536) = false := by decide
theorem test_wellFormed_largest :
    [Instr.construct 255 255, .ingestAad 65535, .encrypt 65535, .decrypt 65535, .finish, .authenticate, .verify 65535,
      .release].all Instr.wellFormed = true := by decide

-- Decoding: one word per row, written out from the formats of R70 to R74 (OP, reserved, operands), then V-E1 to V-E14.

theorem test_decode_construct : decode 0b00000001_00000000_10000011_01000010#32 = .ok (.construct 131 66) := by decide
theorem test_decode_ingestAad : decode 0b00000010_00000000_00000001_00000010#32 = .ok (.ingestAad 258) := by decide
theorem test_decode_encrypt : decode 0b00000011_00000000_10000000_00000001#32 = .ok (.encrypt 32769) := by decide
theorem test_decode_decrypt : decode 0b00000100_00000000_01000000_10000000#32 = .ok (.decrypt 16512) := by decide
theorem test_decode_finish : decode 0b00000101_00000000_00000000_00000000#32 = .ok .finish := by decide
theorem test_decode_authenticate : decode 0b00000110_00000000_00000000_00000000#32 = .ok .authenticate := by decide
theorem test_decode_verify : decode 0b00000111_00000000_00000000_00010000#32 = .ok (.verify 16) := by decide
theorem test_decode_release : decode 0b00001000_00000000_00000000_00000000#32 = .ok .release := by decide
/-- V-E1 to V-E9 (95, section 6). -/
theorem test_decode_vectors :
    [0x01001010#32, 0x01000F10, 0x0200000B, 0x0300FFFF, 0x04000000, 0x05000000, 0x06000000, 0x07000010, 0x08000000].map
      (fun w => decodeTableWord 32 w.toNat) =
    [some (.construct 16 16), some (.construct 15 16), some (.ingestAad 11), some (.encrypt 65535), some (.decrypt 0),
      some .finish, some .authenticate, some (.verify 16), some .release] := by decide
/-- V-E10 to V-E14 (95, section 6), and format Z words with a low bit set. -/
theorem test_decode_illegal :
    [0x00000000, 0x09000000, 0x05000001, 0x02010000, 0xFFFFFFFF, 0x06008000, 0x08000001].map (decodeTableWord 32) =
    [none, none, none, none, none, none, none] := by decide
/-- The response words of 95, section 6. -/
theorem test_response_words :
    [Response.mk .none false .tagged true .dec [], Response.mk .protocolViolation true .absorbingPayload false .enc [],
      Response.mk .none false .absorbingPayload false .enc (zeros 16)].map Response.word =
    [0x04C00000#32, 0x2A200000#32, 0x02200010#32] := by decide

-- Helper values (95, sections 3 to 5)

/-- `n` bytes counting up from `first`. -/
def counting (first n : Nat) : List Byte := (List.range n).map fun i => BitVec.ofNat 8 (first + i)

/-- `n` bytes from a number, the first byte the most significant. -/
def hexBytes (n v : Nat) : List Byte := (List.range n).map fun i => BitVec.ofNat 8 (v / 256 ^ (n - 1 - i))

/-- A permutation state from its words as numbers, and back. -/
def stateOf (c : Cfg) (ws : List Nat) : c.Perm := vec fun i => BitVec.ofNat c.W (ws.getD i.val 0)
def wordsOf {c : Cfg} (S : c.Perm) : List Nat := S.toList.map (·.toNat)

/-- `X` of V-P2. -/
def vecX : List Nat :=
  [0x0123456789abcdef, 0xfedcba9876543210, 0x0f1e2d3c4b5a6978, 0x8796a5b4c3d2e1f0, 0x0011223344556677]

/-- V-P2: the constant, and the whole round. -/
theorem test_round_constant :
    wordsOf (addConst cfgRef (stateOf cfgRef vecX) 0xf0) = vecX.set 2 0x0f1e2d3c4b5a6988 := by decide +kernel
theorem test_round :
    wordsOf (permRound cfgRef (stateOf cfgRef vecX) 0xf0) =
      [0x00fecb27896b4c4e, 0xcfdfdfdb32020296, 0x891aaeddc69521d9, 0xa18372250a6ce542, 0xf0634afa69503d27] := by
  decide +kernel
/-- V-P3: `Apply(X, 6)`, and V-P0: `Apply(S, 0) = S`. -/
theorem test_apply :
    wordsOf (applyRounds cfgRef (6 : Fin 13) (stateOf cfgRef vecX)) =
      [0xaa676d510724cd46, 0x6bbcf96bdcb42204, 0xbc910d4e5a5b18a4, 0x0a362b95b3253797, 0x13f4b83c209f53ce] := by
  decide +kernel
theorem test_apply_zero_rounds :
    wordsOf (applyRounds cfgRef (0 : Fin 13) (stateOf cfgRef vecX)) = vecX := by decide +kernel
/-- V-H1 to V-H4. -/
theorem test_loadWord :
    [(loadWord cfgRef (counting 1 8)).toNat, (loadWord cfgB (counting 1 8)).toNat] =
      [0x0102030405060708, 0x0807060504030201] := by decide +kernel
theorem test_rateBytes :
    [rateBytes cfgRef (stateOf cfgRef vecX), rateBytes cfgB (stateOf cfgB vecX)] =
      [hexBytes 8 0x0123456789abcdef, hexBytes 16 0xefcdab89674523011032547698badcfe] := by decide +kernel
theorem test_xorBytes_be :
    wordsOf (xorBytes cfgRef (stateOf cfgRef vecX) [0xff, 0xee]) = vecX.set 0 0xfecd456789abcdef := by decide +kernel
theorem test_xorBytes_le :
    wordsOf (xorBytes cfgB (stateOf cfgB vecX) (hexBytes 10 0xffee0000000000000001)) =
      (vecX.set 0 0x0123456789ab2310).set 1 0xfedcba9876543310 := by decide +kernel
/-- V-H5. -/
theorem test_pad :
    [pad cfgRef [1, 2] 8, pad cfgRef [] 8, pad cfgRef (counting 0 7) 8, pad cfgB [] 16] =
      [hexBytes 8 0x0102800000000000, hexBytes 8 0x8000000000000000, hexBytes 8 0x0001020304050680,
        hexBytes 16 0x01000000000000000000000000000000] := by decide +kernel
/-- V-T1 to V-T4. -/
theorem test_ctEq :
    [ctEq [0] [0], ctEq [0xa0, 0xc0] [0xa0, 0xc1], ctEq [0xff, 0] [0, 0xff], ctEq [1, 0] [0, 0]]
      = [true, false, false, false] := by decide

/-- An accumulator that holds the given bytes. -/
def accOf (w : Nat) (d : List Byte) : Acc w := { buf := takeBytes d 0 w, pos := d.length }

/-- A callback that emits the block it receives. -/
def logging (c : Cfg) : Callback c := fun blk S => (S, blk)

/-- V-A3 and V-A5: a feed that fills the buffer hands nothing over; a longer one hands over every full block but the last. -/
theorem test_feed_deferred :
    (let f := feed (logging cfgRef) (counting 3 5) { acc := accOf 8 (counting 0 3), S := stateOf cfgRef [], out := [] }
     (f.out, f.acc)) = ([], accOf 8 (counting 0 8)) := by decide +kernel
theorem test_feed_blocks :
    (let f := feed (logging cfgRef) (counting 9 16) { acc := accOf 8 [8], S := stateOf cfgRef [], out := [] }
     (f.out, f.acc.content)) = (counting 8 16, [0x18]) := by decide +kernel

-- One step of each instruction (95, section 7): the state of a row, the command of the next row, one or two of its results.

/-- The key of the tables. -/
def keyBytes : List Byte := counting 0 16

/-- A state of the tables. -/
def row (c : Cfg) (ws : List Nat) (phase : Phase) (dir : Dir) (aad pay : List Byte) : Engine c where
  S := stateOf c ws
  K := takeBytes keyBytes 0 c.KEY_LEN
  phase := phase
  void := false
  dir := dir
  aad := accOf c.AAD_WIDTH aad
  pay := accOf c.PAY_WIDTH pay

/-- P1 row 1 and P2 rows 3 to 7, `S[0..4]`. -/
def s1 : List Nat :=
  [0xcba43b0a331b0ae5, 0xd0b1251e0aae45b2, 0x38a513833140c3d8, 0x9a7e53e8fcfb3832, 0x51df9d8eccf77b4f]
def s3 : List Nat :=
  [0x2e69b6b2895f7c20, 0x59601f65519953a3, 0x3df2a8c53263df37, 0x847cb861cd180399, 0x6b39d90ffc0dc967]
def s4 : List Nat :=
  [0xd8887493ff7d77ed, 0xac6f9d81df17753d, 0x0906e7fcfd0c1b9c, 0xbc6c5eddc7d54d03, 0x0d30060e4c5b9e6f]
def s5 : List Nat :=
  [0x336b49bbbf1276d7, 0x4bc8cf42ae96c93c, 0x7502cf6097128f03, 0xbeeab04bd5c49242, 0xa234ddb2b33d88fa]
def s6 : List Nat :=
  [0x73eb49bbbf1276d7, 0x4bc8cf42ae96c93c, 0x7502cf6097128f03, 0xbeeab04bd5c49242, 0xa234ddb2b33d88fa]
def s7 : List Nat :=
  [0x249a676eab4e874f, 0xeab2f5ac8724105c, 0xfedb1d8f9d84cde5, 0xa0cf65c9d080d060, 0xf1bf3e95042497cf]

/-- P1 row 1. -/
theorem test_construct :
    (let r := perform cfgRef (.construct 16 16) (counting 0 32) (Engine.reset cfgRef)
     (wordsOf r.engine.S, r.engine.K.toList, r.response.word)) = (s1, keyBytes, 0x01000000#32) := by decide +kernel
/-- P5 row 4: with both lengths wrong the key length is reported. -/
theorem test_construct_key_first :
    (perform cfgRef (.construct 0 0) [] (Engine.reset cfgRef)).response.word = 0x30000000#32 := by decide +kernel
/-- P2 row 2: a chunk that fills the buffer changes no word of `S`. -/
theorem test_ingestAad_deferred :
    (let r := perform cfgRef (.ingestAad 8) (counting 0xa0 8) (row cfgRef s1 .absorbingAad .none [] [])
     (wordsOf r.engine.S, r.engine.aad.pos)) = (s1, 8) := by decide +kernel
/-- P2 row 3: the next byte absorbs the deferred block. -/
theorem test_ingestAad :
    (let r := perform cfgRef (.ingestAad 3) (counting 0xa8 3)
       (row cfgRef s1 .absorbingAad .none (counting 0xa0 8) [])
     (wordsOf r.engine.S, r.engine.aad.pos)) = (s3, 3) := by decide +kernel
/-- P2 row 4: the first payload command flushes the AAD and latches the direction. -/
theorem test_encrypt_first :
    (let r := perform cfgRef (.encrypt 8) (counting 0x30 8)
       (row cfgRef s3 .absorbingAad .none (counting 0xa8 3) [])
     (wordsOf r.engine.S, r.response.word)) = (s4, 0x02200000#32) := by decide +kernel
/-- P2 row 5: two blocks of ciphertext. -/
theorem test_encrypt :
    (let r := perform cfgRef (.encrypt 9) (counting 0x38 9)
       (row cfgRef s4 .absorbingPayload .enc [] (counting 0x30 8))
     (wordsOf r.engine.S, r.dout)) = (s5, hexBytes 16 0xe8b946a0cb4841dacbffd8b8ec6a2041) := by decide +kernel
/-- P3 row 4: two blocks of plaintext, with another chunking. -/
theorem test_decrypt :
    (let r := perform cfgRef (.decrypt 12) (hexBytes 12 0x4841dacbffd8b8ec6a204173)
       (row cfgRef s4 .absorbingPayload .dec [] (hexBytes 5 0xe8b946a0cb))
     (wordsOf r.engine.S, r.dout)) = (s5, counting 0x30 16) := by decide +kernel
/-- P5 row 14: a payload command against the latched direction. -/
theorem test_decrypt_wrong_direction :
    (perform cfgRef (.decrypt 3) (hexBytes 3 0x616263)
      (row cfgRef s4 .absorbingPayload .enc [] (hexBytes 3 0x616263))).response.word = 0x2A200000#32 := by
  decide +kernel
/-- P2 row 6: the last byte of ciphertext. -/
theorem test_finish :
    (let r := perform cfgRef .finish [] (row cfgRef s5 .absorbingPayload .enc [] [0x40])
     (wordsOf r.engine.S, r.dout)) = (s6, [0x73]) := by decide +kernel
/-- P6 row 4 (`CFG_B`): a full deferred block, an empty padded block, the rounds after it, the separation constant. -/
theorem test_finish_full_block :
    (let r := perform cfgB .finish [] (row cfgB
       [0xe6dcdcb0f678585d, 0x23a1879307e07cc9, 0x9bd069eb9994afa8, 0x1d7c5350c110739f, 0x0735ac46914c4ed0]
       .absorbingPayload .enc [] (counting 0x60 8))
     (wordsOf r.engine.S, r.dout)) =
    ([0xf71ab0cdc57fd4d7, 0x5828337ac7f755d5, 0x4fc6d70e2a1b1dac, 0xdc63d700f1894a41, 0x3f3e81963d6971ba],
      hexBytes 8 0x3d391a95d4b9ba81) := by decide +kernel
/-- P2 row 7: the tag; the key is cleared. -/
theorem test_authenticate :
    (let r := perform cfgRef .authenticate [] (row cfgRef s6 .finalized .enc [] [])
     (wordsOf r.engine.S, r.dout)) = (s7, hexBytes 16 0xa0ce67cad485d667f9b6349e082999c0) := by decide +kernel
theorem test_authenticate_clears_key :
    (perform cfgRef .authenticate [] (row cfgRef s6 .finalized .enc [] [])).engine.K.toList = zeros 16 := by
  decide +kernel
/-- P3 row 6 and P4 row 5: a candidate that is the tag, and one that differs in its last bit. -/
theorem test_verify_match :
    (perform cfgRef (.verify 16) (hexBytes 16 0xa0ce67cad485d667f9b6349e082999c0)
      (row cfgRef s6 .finalized .dec [] [])).response.word = 0x04C00000#32 := by decide +kernel
theorem test_verify_mismatch :
    (perform cfgRef (.verify 16) (hexBytes 16 0xa0ce67cad485d667f9b6349e082999c1)
      (row cfgRef s6 .finalized .dec [] [])).response.word = 0x04400000#32 := by decide +kernel
/-- P1 row 4: all state zero. -/
theorem test_release :
    (let r := perform cfgRef .release [] (row cfgRef s7 .tagged .enc [] [])
     (wordsOf r.engine.S, r.response.word)) = ([0, 0, 0, 0, 0], 0#32) := by decide +kernel

-- The step

/-- From reset, the words of the opcode table are executed as the first command: one response each; and the error of
each word whose outcome in `IDLE` does not depend on the configuration (R192, R157). -/
theorem test_step_from_reset :
    [0x01001010, 0x02000000, 0x0300FFFF, 0x04000000, 0x05000000, 0x06000000, 0x07000000, 0x08000000].map (fun w =>
      match step (State.reset.withFetchWord 32 w) with
      | .next t => t.output.length
      | _ => 0) = [1, 1, 1, 1, 1, 1, 1, 1] := by decide +kernel
theorem test_step_errors :
    [0x02000000, 0x03000000, 0x04000000, 0x05000000, 0x06000000, 0x07000000, 0x08000000].map (fun w =>
      match step (State.reset.withFetchWord 32 w) with
      | .next t => t.output.map (·.err)
      | _ => []) =
    List.replicate 6 [.protocolViolation] ++ [[.none]] := by decide +kernel
/-- P5 row 5. -/
theorem test_step_illegal :
    (match step (State.reset.withFetchWord 32 0) with
      | .next t => t.output.map (·.word)
      | _ => []) = [0x10000000#32] := by decide +kernel

end Sys2Proof.Tests
end

