-- ==== Sys2Proof/Tests/Witnesses.lean ====
section
/-! SUPPORT. For every statement with hypotheses, a concrete state and operands that meet all of them together, each clause at
a boundary of its range. `witness_<Name>` belongs to `Obligations.<Name>`; several of one statement are numbered by clause. -/

namespace Sys2Proof.Tests

open Sys2Proof.Machine

-- Encoding

theorem witness_DecodeOfEncode : Instr.WellFormed (.construct 255 0) ∧ Instr.WellFormed (.encrypt 65535) := by decide

theorem witness_EncodeOfDecode :
    decode 0x0100FFFF#32 = .ok (.construct 255 255) ∧ decode 0x07000000#32 = .ok (.verify 0) := by decide

theorem witness_DecodeFollowsOpcodeMap :
    decode 0x0300FFFF#32 = .ok (.encrypt 65535) ∧
      (⟨"ENCRYPT", 0xFFFF0000#32, 0x03000000#32⟩ : OpcodeRow) ∈ opcodeMap ∧
      OpcodeRow.selects ⟨"ENCRYPT", 0xFFFF0000#32, 0x03000000#32⟩ 0x0300FFFF#32 = true := by decide

theorem witness_ResponseWordFields :
    (Response.mk .none false .absorbingPayload false .enc (zeros 131071)).outLen < 2 ^ 17 := by
  rw [Response.outLen, zeros_length]
  decide

-- The step

/-- A state with an engine that is zero but for phase, `VOID` and direction, and with input bytes at hand. -/
def sample (phase : Phase) (void : Bool) (dir : Dir) (din : List Byte) : State where
  engine := { Engine.reset Config.cfg with phase := phase, void := void, dir := dir }
  din := din
  input := []
  output := []

theorem witness_StepRunsDecodedCommand :
    (State.reset.withFetchWord 32 0x0300FFFF).input = .command (tableTransaction 32 0x0300FFFF) :: [] ∧
      decode (tableTransaction 32 0x0300FFFF).cmd = .ok (.encrypt 65535) := ⟨rfl, by decide⟩

theorem witness_IllegalWordIsReported :
    (State.reset.withFetchWord 32 0x02010000).input = .command (tableTransaction 32 0x02010000) :: [] ∧
      ∀ r ∈ opcodeMap, r.selects (tableTransaction 32 0x02010000).cmd = false := ⟨rfl, by decide⟩

theorem witness_StepWaitsForAnEvent : (sample .finalized false .dec []).input = [] := rfl

theorem witness_ResetEventResetsEngine :
    { sample .absorbingPayload true .enc [] with input := [.reset] }.input = .reset :: [] := rfl

theorem witness_RefusesOnlyMalformedTransactions :
    (sample .idle false .none [1#8]).din.length ≠ dinLength (.ingestAad 0) ∧
      (sample .idle false .none [1#8]).din.length = dinLength (.ingestAad 1) := by decide

theorem witness_WellFormedEventsAreTaken :
    { sample .idle false .none [] with input := [.command ⟨0x02000001#32, [7#8]⟩, .reset] }.input =
        .command ⟨0x02000001#32, [7#8]⟩ :: [.reset] ∧
      HostEvent.wellFormed (.command ⟨0x02000001#32, [7#8]⟩) = true ∧ HostEvent.wellFormed .reset = true := by
  exact ⟨rfl, by decide, by decide⟩

-- Bytes and words

theorem witness_LoadStoreWord :
    cfgRef.BYTE_ORDER = .be ∧ cfgB.BYTE_ORDER = .le ∧ 7 < cfgRef.B ∧ 7 < cfgB.B ∧
      (counting 1 8).length = cfgRef.B := by decide

theorem witness_RateBytesLayout : 15 < cfgB.R_WORDS * cfgB.B ∧ 0 < cfgRef.R_WORDS * cfgRef.B := by decide

/-- A string as long as the rate, the empty string, and the first capacity word. -/
theorem witness_XorBytesOnRate :
    (counting 0 16).length ≤ cfgB.R_WORDS * cfgB.B ∧ 15 < (counting 0 16).length ∧
      ([] : List Byte).length ≤ cfgB.R_WORDS * cfgB.B ∧ ([] : List Byte).length ≤ 0 ∧
      cfgB.R_WORDS ≤ (2 : Fin 5).val := by decide

/-- The key mask of the tables' key, and a separation constant, are such masks and not zero. -/
theorem witness_XorStateChangesCapacityOnly :
    wordsOf (cfgRef.KeyMaskInit (takeBytes keyBytes 0 16)) = [0, 0, 0, 0x0001020304050607, 0x08090a0b0c0d0e0f] ∧
      wordsOf cfgB.DS_AAD = [0, 0, 0, 0, 0x8000000000000000] := by decide +kernel

theorem witness_AddConstChangesOneWord : (⟨4, by decide⟩ : Fin cfgRef.N) ≠ cfgRef.RC_WORD := by decide

theorem witness_ApplyIteratesRounds : 11 < (12 : Fin (cfgRef.ROUNDS_MAX + 1)).val := by decide

-- The accumulator: an empty one, and one in which a full block is waiting.

theorem witness_FeedPositionAndCallCount :
    0 < 8 ∧ (accOf 8 []).pos ≤ 8 ∧ (accOf 8 []).pos = 0 ∧ (accOf 8 (counting 0 8)).pos ≤ 8 ∧
      (accOf 8 (counting 0 8)).pos = 8 ∧ counting 0 1 ≠ [] := by decide

theorem witness_FeedHandsOverStreamBlocks :
    0 < 8 ∧ (accOf 8 (counting 0 8)).pos ≤ 8 ∧ (accOf 8 []).pos ≤ 8 := by decide

-- Blocks and flushes

theorem witness_PadLayout : (counting 0 7).length < 8 ∧ ([] : List Byte).length < 8 ∧ ([] : List Byte).length < 7 := by
  decide

theorem witness_PayloadBlocks : (counting 0 8).length = cfgRef.PAY_WIDTH := by decide

theorem witness_DataReachesCapacityThroughApply :
    cfgRef.R_WORDS ≤ (⟨1, by decide⟩ : Fin cfgRef.N).val ∧ cfgB.R_WORDS ≤ (⟨2, by decide⟩ : Fin cfgB.N).val ∧
      (counting 0 8).length = cfgRef.AAD_WIDTH ∧ (counting 0 16).length = cfgB.AAD_WIDTH := by decide

theorem witness_FlushPayOfRemainder :
    (row cfgRef s4 .absorbingPayload .dec [] (counting 0 7)).pay.pos < cfgRef.PAY_WIDTH ∧
      (row cfgRef s4 .absorbingPayload .dec [] (counting 0 7)).dir = .dec ∧
      (row cfgRef s1 .absorbingAad .none [] []).pay.pos < cfgRef.PAY_WIDTH ∧
      (row cfgRef s1 .absorbingAad .none [] []).dir ≠ .dec := by decide

theorem witness_FlushPayOfFullBlock :
    (row cfgRef s4 .absorbingPayload .dec [] (counting 0 8)).pay.pos = cfgRef.PAY_WIDTH ∧
      (row cfgRef s4 .absorbingPayload .dec [] (counting 0 8)).dir = .dec ∧
      (row cfgRef s4 .absorbingPayload .enc [] (counting 0 8)).pay.pos = cfgRef.PAY_WIDTH ∧
      (row cfgRef s4 .absorbingPayload .enc [] (counting 0 8)).dir ≠ .dec := by decide

theorem witness_CtEqDecidesEquality : (counting 0 16).length = (counting 1 16).length := by decide

theorem witness_BlockRoundTrip :
    (counting 0 8).length = cfgRef.PAY_WIDTH ∧ (counting 0 7).length < cfgRef.PAY_WIDTH := by decide

theorem witness_StreamRoundTrip :
    let e := row cfgRef s1 .absorbingPayload .enc [] []
    let d := row cfgRef s1 .absorbingPayload .dec [] []
    e.S = d.S ∧ e.K = d.K ∧ e.dir = .enc ∧ d.dir = .dec ∧ e.pay.pos = 0 ∧ d.pay.pos = 0 :=
  ⟨rfl, rfl, rfl, rfl, rfl, rfl⟩

-- The commands: for each clause a state with input bytes of the declared length.

/-- The key and nonce bytes of a successful `CONSTRUCT` on the hardware's configuration. -/
def keyAndNonce : List Byte := zeros (Config.cfg.KEY_LEN + Config.cfg.NONCE_LEN)

theorem witness_ConstructCommand_1 :
    (sample .idle false .none keyAndNonce).din.length = Config.cfg.KEY_LEN + Config.cfg.NONCE_LEN ∧
      (sample .idle false .none keyAndNonce).engine.void = false ∧
      (sample .idle false .none keyAndNonce).engine.phase = .idle := ⟨zeros_length _, rfl, rfl⟩

/-- Both lengths wrong: 0 is never a configured length. -/
theorem witness_ConstructCommand_2 :
    (sample .idle false .none []).din.length = 0 + 0 ∧ (sample .idle false .none []).engine.void = false ∧
      (sample .idle false .none []).engine.phase = .idle ∧ 0 ≠ Config.cfg.KEY_LEN :=
  ⟨rfl, rfl, rfl, by have := Config.cfg.KEY_LEN_pos; omega⟩

theorem witness_ConstructCommand_3 :
    (sample .idle false .none (zeros Config.cfg.KEY_LEN)).din.length = Config.cfg.KEY_LEN + 0 ∧
      (sample .idle false .none (zeros Config.cfg.KEY_LEN)).engine.void = false ∧
      (sample .idle false .none (zeros Config.cfg.KEY_LEN)).engine.phase = .idle ∧ 0 ≠ Config.cfg.NONCE_LEN :=
  ⟨zeros_length _, rfl, rfl, by have := Config.cfg.NONCE_LEN_pos; omega⟩

theorem witness_ConstructCommand_4 :
    (sample .tagged false .dec []).din.length = 0 + 0 ∧ (sample .tagged false .dec []).engine.void = false ∧
      (sample .tagged false .dec []).engine.phase ≠ .idle := ⟨rfl, rfl, by decide⟩

theorem witness_IngestAadCommand :
    (sample .absorbingAad false .none [1#8]).din.length = 1 ∧ (sample .absorbingAad false .none []).din.length = 0 ∧
      (sample .absorbingAad false .none [1#8]).engine.void = false ∧
      (sample .absorbingAad false .none []).engine.phase = .absorbingAad ∧
      (sample .absorbingPayload false .enc []).engine.void = false ∧
      (sample .absorbingPayload false .enc []).engine.phase ≠ .absorbingAad :=
  ⟨rfl, rfl, rfl, rfl, rfl, by decide⟩

/-- The three clauses: the first payload command, a later one, and one against the latched direction. -/
theorem witness_EncryptCommand :
    (sample .absorbingAad false .none []).din.length = 0 ∧ (sample .absorbingAad false .none []).engine.void = false ∧
      (sample .absorbingAad false .none []).engine.phase = .absorbingAad ∧
      (sample .absorbingPayload false .enc [1#8]).engine.phase = .absorbingPayload ∧
      (sample .absorbingPayload false .enc [1#8]).engine.dir = .enc ∧
      (sample .absorbingPayload false .dec []).engine.phase ≠ .absorbingAad ∧
      ¬ ((sample .absorbingPayload false .dec []).engine.phase = .absorbingPayload ∧
        (sample .absorbingPayload false .dec []).engine.dir = .enc) :=
  ⟨rfl, rfl, rfl, rfl, rfl, by decide, by decide⟩

theorem witness_DecryptCommand :
    (sample .absorbingAad false .none []).din.length = 0 ∧ (sample .absorbingAad false .none []).engine.void = false ∧
      (sample .absorbingAad false .none []).engine.phase = .absorbingAad ∧
      (sample .absorbingPayload false .dec [1#8]).engine.phase = .absorbingPayload ∧
      (sample .absorbingPayload false .dec [1#8]).engine.dir = .dec ∧
      (sample .absorbingPayload false .enc []).engine.phase ≠ .absorbingAad ∧
      ¬ ((sample .absorbingPayload false .enc []).engine.phase = .absorbingPayload ∧
        (sample .absorbingPayload false .enc []).engine.dir = .dec) :=
  ⟨rfl, rfl, rfl, rfl, rfl, by decide, by decide⟩

theorem witness_FinishCommand :
    (sample .absorbingAad false .none []).din = [] ∧ (sample .absorbingAad false .none []).engine.void = false ∧
      (sample .absorbingAad false .none []).engine.phase = .absorbingAad ∧
      (sample .absorbingPayload false .enc []).engine.phase = .absorbingPayload ∧
      (sample .finalized false .none []).engine.phase ≠ .absorbingAad ∧
      (sample .finalized false .none []).engine.phase ≠ .absorbingPayload :=
  ⟨rfl, rfl, rfl, rfl, by decide, by decide⟩

theorem witness_AuthenticateCommand :
    (sample .finalized false .dec []).din = [] ∧ (sample .finalized false .dec []).engine.void = false ∧
      (sample .finalized false .dec []).engine.phase = .finalized ∧
      (sample .tagged false .dec []).engine.void = false ∧ (sample .tagged false .dec []).engine.phase ≠ .finalized :=
  ⟨rfl, rfl, rfl, rfl, by decide⟩

theorem witness_VerifyCommand_1 :
    (sample .finalized false .none (zeros Config.cfg.TAG_LEN)).din.length = Config.cfg.TAG_LEN ∧
      (sample .finalized false .none (zeros Config.cfg.TAG_LEN)).engine.void = false ∧
      (sample .finalized false .none (zeros Config.cfg.TAG_LEN)).engine.phase = .finalized := ⟨zeros_length _, rfl, rfl⟩

theorem witness_VerifyCommand_2 :
    (sample .finalized false .none []).din.length = 0 ∧ (sample .finalized false .none []).engine.void = false ∧
      (sample .finalized false .none []).engine.phase = .finalized ∧ 0 ≠ Config.cfg.TAG_LEN ∧
      (sample .absorbingAad false .none []).engine.phase ≠ .finalized :=
  ⟨rfl, rfl, rfl, by have := Config.cfg.TAG_LEN_pos; omega, by decide⟩

theorem witness_ReleaseCommand : (sample .absorbingPayload true .enc []).din = [] := rfl

-- Commands that complete, one of each instruction, with their response.

/-- The command is executed, answered, and ends without an error. -/
def Succeeds (i : Instr) (s : State) : Prop :=
  ∃ (t : State) (r : Response), exec i s = .next t ∧ Answered s t r ∧ r.err = .none

/-- The command is executed, answered, and ends in the error. -/
def Fails (i : Instr) (s : State) (err : ErrCode) : Prop :=
  ∃ (t : State) (r : Response), exec i s = .next t ∧ Answered s t r ∧ r.err = err

theorem succeeds_of {i : Instr} {s : State} (hd : s.din.length = dinLength i)
    (h : (perform Config.cfg i s.din s.engine).err = .none) : Succeeds i s :=
  ⟨_, _, exec_of_din hd, answered_complete _ _, h⟩

theorem fails_of {i : Instr} {s : State} {err : ErrCode} (hd : s.din.length = dinLength i)
    (h : (perform Config.cfg i s.din s.engine).err = err) : Fails i s err :=
  ⟨_, _, exec_of_din hd, answered_complete _ _, h⟩

/-- A success of each instruction: with it every clause of `PhaseTransitions`, `CommandFrames` and `OutputLengths` has a
run. -/
theorem witness_construct_succeeds :
    Succeeds (.construct Config.cfg.KEY_LEN Config.cfg.NONCE_LEN) (sample .idle false .none keyAndNonce) :=
  succeeds_of (zeros_length _) (by rw [perform_construct rfl rfl rfl]; rfl)
theorem witness_ingestAad_succeeds : Succeeds (.ingestAad 1) (sample .absorbingAad false .none [1#8]) :=
  succeeds_of rfl rfl
theorem witness_encrypt_succeeds : Succeeds (.encrypt 1) (sample .absorbingAad false .none [1#8]) := succeeds_of rfl rfl
theorem witness_decrypt_succeeds : Succeeds (.decrypt 0) (sample .absorbingPayload false .dec []) := succeeds_of rfl rfl
theorem witness_finish_succeeds : Succeeds .finish (sample .absorbingAad false .none []) := succeeds_of rfl rfl
theorem witness_authenticate_succeeds : Succeeds .authenticate (sample .finalized false .enc []) := succeeds_of rfl rfl
theorem witness_verify_succeeds :
    Succeeds (.verify Config.cfg.TAG_LEN) (sample .finalized false .none (zeros Config.cfg.TAG_LEN)) :=
  succeeds_of (zeros_length _) (by rw [perform_verify rfl rfl]; rfl)
theorem witness_release_succeeds : Succeeds .release (sample .tagged true .dec []) := succeeds_of rfl rfl

/-- A `VERIFY` of the tag itself, and one of another string, are executed. -/
theorem witness_OneResponsePerCommand :
    Succeeds (.verify Config.cfg.TAG_LEN)
        (sample .finalized false .none (tagOf Config.cfg (sample .finalized false .none []).engine).toList) ∧
      Succeeds .release (sample .idle false .none []) :=
  ⟨succeeds_of (by simp [sample, dinLength]) (by rw [perform_verify rfl rfl]; rfl), succeeds_of rfl rfl⟩

/-- A success and an error; the way back. -/
theorem witness_PhaseTransitions :
    Succeeds (.encrypt 1) (sample .absorbingAad false .none [1#8]) ∧
      Fails (.encrypt 1) (sample .finalized false .none [1#8]) .protocolViolation :=
  ⟨succeeds_of rfl rfl, fails_of rfl rfl⟩
theorem witness_PhaseIsMonotonic :
    Succeeds .finish (sample .absorbingPayload false .enc []) ∧ Succeeds .release (sample .tagged false .enc []) :=
  ⟨succeeds_of rfl rfl, succeeds_of rfl rfl⟩
theorem witness_KeyLifetime_loads :
    Succeeds (.construct Config.cfg.KEY_LEN Config.cfg.NONCE_LEN) (sample .idle false .none keyAndNonce) ∧
      Fails (.construct 0 0) (sample .tagged false .none []) .protocolViolation :=
  ⟨witness_construct_succeeds, fails_of rfl rfl⟩
theorem witness_KeyLifetime_clears :
    Succeeds .authenticate (sample .finalized false .none []) ∧
      Succeeds (.verify Config.cfg.TAG_LEN) (sample .finalized false .none (zeros Config.cfg.TAG_LEN)) ∧
      Succeeds .release (sample .absorbingPayload true .enc []) ∧
      Fails .authenticate (sample .absorbingAad false .none []) .protocolViolation ∧
      Fails (.verify 0) (sample .absorbingPayload false .dec []) .protocolViolation :=
  ⟨succeeds_of rfl rfl, witness_verify_succeeds, succeeds_of rfl rfl, fails_of rfl rfl, fails_of rfl rfl⟩
/-- The first payload command of either kind, a later one, one against the latched direction, and the way back. -/
theorem witness_DirectionLatch :
    Succeeds (.encrypt 0) (sample .absorbingAad false .none []) ∧
      Succeeds (.decrypt 0) (sample .absorbingAad false .none []) ∧
      Succeeds (.encrypt 1) (sample .absorbingPayload false .enc [1#8]) ∧
      Fails (.encrypt 0) (sample .absorbingPayload false .dec []) .protocolViolation ∧
      Succeeds .release (sample .tagged false .dec []) :=
  ⟨succeeds_of rfl rfl, succeeds_of rfl rfl, succeeds_of rfl rfl, fails_of rfl rfl, succeeds_of rfl rfl⟩
theorem witness_CommandFrames :
    Succeeds (.ingestAad 1) (sample .absorbingAad false .none [1#8]) ∧
      Succeeds (.encrypt 1) (sample .absorbingPayload false .enc [1#8]) ∧
      Succeeds .finish (sample .absorbingPayload false .dec []) :=
  ⟨succeeds_of rfl rfl, succeeds_of rfl rfl, succeeds_of rfl rfl⟩

/-- `OutputLengths`: both ends of the cursor's range. -/
theorem witness_OutputLengths :
    (sample .absorbingPayload false .dec []).engine.pay.pos ≤ Config.cfg.PAY_WIDTH ∧
      { Engine.reset Config.cfg with pay := { Acc.empty Config.cfg.PAY_WIDTH with pos := Config.cfg.PAY_WIDTH } }.pay.pos
        ≤ Config.cfg.PAY_WIDTH := ⟨Nat.zero_le _, Nat.le_refl _⟩

/-- An error with an instance, of a command and of an illegal word; an error in `IDLE`; an error while void. -/
theorem witness_ErrorEntryFrame :
    Fails (.ingestAad 0) (sample .absorbingPayload false .enc []) .protocolViolation ∧
      Fails .finish (sample .idle false .none []) .protocolViolation ∧
      Fails .authenticate (sample .finalized true .enc []) .protocolViolation ∧
      ∃ (t : State) (r : Response),
        step { sample .absorbingPayload false .enc [] with input := [.command ⟨0x05000001#32, []⟩] } = .next t ∧
        t.output = [] ++ [r] ∧ r.err ≠ .none :=
  ⟨fails_of rfl rfl, fails_of rfl rfl, fails_of rfl rfl,
    illegalCommand (sample .absorbingPayload false .enc []),
    (raise .illegalCommand (sample .absorbingPayload false .enc []).engine).response, rfl, rfl, by decide⟩

theorem witness_ErrorPriority :
    Fails (.construct 0 0) (sample .idle false .none []) .invalidKeyLength ∧
      phaseLegal (.construct 0 0) .idle .none = true ∧ phaseLegal (.verify 0) .finalized .none = true ∧
      phaseLegal (.ingestAad 0) .absorbingAad .none = true ∧ phaseLegal .finish .tagged .enc = false := by
  refine ⟨fails_of rfl ?_, by decide, by decide, by decide, by decide⟩
  have := Config.cfg.KEY_LEN_pos
  have h : perform Config.cfg (.construct 0 0) [] (sample .idle false .none []).engine
      = raise .invalidKeyLength (sample .idle false .none []).engine := by
    rw [perform, constructCommand, guarded_ok rfl, if_pos (by omega)]
  exact congrArg Reply.err h

theorem witness_ErrorsInIdleChangeNothing :
    { sample .idle false .none [] with input := [.command ⟨0x05000000#32, []⟩] }.input =
        .command ⟨0x05000000#32, []⟩ :: [] ∧
      (sample .idle false .none []).engine.phase = .idle ∧
      ∃ (t : State) (r : Response),
        step { sample .idle false .none [] with input := [.command ⟨0x05000000#32, []⟩] } = .next t ∧
        t.output = [] ++ [r] ∧ r.err ≠ .none :=
  ⟨rfl, rfl, sample .idle false .none [] |>.complete (raise .protocolViolation (Engine.reset Config.cfg)),
    (raise .protocolViolation (Engine.reset Config.cfg)).response, rfl, rfl, by decide⟩

theorem witness_VoidAdmitsOnlyRelease :
    (sample .finalized true .enc []).engine.void = true ∧ Instr.finish ≠ .release ∧
      (sample .finalized true .enc []).din.length = dinLength .finish := ⟨rfl, by decide, rfl⟩

-- Invariants: an encrypting instance whose payload buffer is full, and what the host may do with it.

/-- An instance in `ABSORBING_PAYLOAD` with a full payload block waiting. -/
def encrypting (void : Bool) : Engine Config.cfg where
  S := vec fun _ => BitVec.allOnes Config.cfg.W
  K := vec fun _ => 0xff#8
  phase := .absorbingPayload
  void := void
  dir := .enc
  aad := Acc.empty Config.cfg.AAD_WIDTH
  pay := { buf := vec fun _ => 0xff#8, pos := Config.cfg.PAY_WIDTH }

theorem encrypting_inv (void : Bool) : (encrypting void).Inv where
  aad_pos := Nat.zero_le _
  pay_pos := Nat.le_refl _
  idle := by simp [encrypting]
  aad_empty := by simp [encrypting]
  pay_empty := by simp [encrypting]
  key_gone := by simp [encrypting]
  dir_none := by simp [encrypting]
  dir_latched := by simp [encrypting]

theorem witness_StepKeepsInvariant :
    State.Inv { engine := encrypting false, din := [], input := [.command ⟨0x05000000#32, []⟩], output := [] } ∧
      ∃ t, step { engine := encrypting false, din := [], input := [.command ⟨0x05000000#32, []⟩], output := [] }
        = .next t :=
  ⟨⟨encrypting_inv false, rfl, by simp⟩,
    State.complete { engine := encrypting false, din := [], input := [], output := [] }
      (perform Config.cfg .finish [] (encrypting false)), rfl⟩

theorem witness_WrongPhaseIsReported :
    (encrypting false).Inv ∧ (encrypting true).Inv ∧
      ({ engine := encrypting true, din := [1#8], input := [], output := [] } : State).din.length =
        dinLength (.decrypt 1) := ⟨encrypting_inv false, encrypting_inv true, rfl⟩

-- Streams

theorem witness_ChunkingInvariance :
    Instr.ingestAad ∈ [Instr.ingestAad, Instr.encrypt, Instr.decrypt] ∧
      Instr.encrypt ∈ [Instr.ingestAad, Instr.encrypt, Instr.decrypt] ∧
      Instr.decrypt ∈ [Instr.ingestAad, Instr.encrypt, Instr.decrypt] := by simp

theorem witness_ZeroLengthPayloadThenFinish :
    Instr.decrypt ∈ [Instr.encrypt, Instr.decrypt] ∧
      (sample .absorbingAad false .none []).engine.phase = .absorbingAad ∧
      (sample .absorbingAad false .none []).engine.void = false ∧
      (sample .absorbingAad false .none []).engine.pay.pos = 0 ∧ (sample .absorbingAad false .none []).din = [] :=
  ⟨by simp, rfl, rfl, rfl, rfl⟩

/-- Two states that differ in the whole unread buffer. -/
def staleState (b : Byte) : State :=
  { sample .absorbingAad false .none [1#8] with
    engine :=
      { (sample .absorbingAad false .none [1#8]).engine with
        aad := { buf := vec fun _ => b, pos := 0 }, pay := { buf := vec fun _ => b, pos := 0 } } }

theorem witness_StaleBufferBytesUnread :
    (staleState 0x55#8).engine.aad.pos ≤ Config.cfg.AAD_WIDTH ∧
      (staleState 0x55#8).engine.pay.pos ≤ Config.cfg.PAY_WIDTH ∧
      (staleState 0x55#8).engine.Agrees (staleState 0xaa#8).engine ∧
      (staleState 0x55#8).din = (staleState 0xaa#8).din ∧ (staleState 0x55#8).input = (staleState 0xaa#8).input ∧
      (staleState 0x55#8).output = (staleState 0xaa#8).output ∧
      ∃ s', exec (.ingestAad 1) (staleState 0x55#8) = .next s' :=
  ⟨Nat.zero_le _, Nat.zero_le _, ⟨rfl, rfl, rfl, rfl, rfl, ⟨rfl, rfl⟩, ⟨rfl, rfl⟩⟩, rfl, rfl, rfl, _, exec_of_din rfl⟩

-- Runs: one instance from `CONSTRUCT` to `RELEASE`, with no data at all.

/-- `CONSTRUCT`, `FINISH`, `AUTHENTICATE`, `RELEASE`. -/
def emptyMessage : List Transaction :=
  [⟨encode (.construct Config.cfg.KEY_LEN Config.cfg.NONCE_LEN), keyAndNonce⟩, ⟨0x05000000#32, []⟩, ⟨0x06000000#32, []⟩,
    ⟨0x08000000#32, []⟩]

theorem construct_decodes :
    decode (encode (.construct Config.cfg.KEY_LEN Config.cfg.NONCE_LEN)) =
      .ok (.construct Config.cfg.KEY_LEN Config.cfg.NONCE_LEN) := by
  have hk := Config.cfg.KEY_LEN_field
  have hn := Config.cfg.NONCE_LEN_field
  generalize Config.cfg.KEY_LEN = k at hk ⊢
  generalize Config.cfg.NONCE_LEN = n at hn ⊢
  simp only [encode, decode, opField_eq, reservedField_eq, klenField_eq, nlenField_eq,
    encodeK_toNat 1#8 k n (by omega) (by omega)]
  simp
  rw [show (16777216 + k * 256 + n) / 65536 % 256 = 0 by omega, show (16777216 + k * 256 + n) / 16777216 % 256 = 1 by omega,
    show (16777216 + k * 256 + n) / 256 % 256 = k by omega, show (16777216 + k * 256 + n) % 256 = n by omega]
  simp

theorem emptyMessage_isRun : isRun emptyMessage := by
  intro t ht
  simp only [emptyMessage, List.mem_cons, List.not_mem_nil, or_false] at ht
  rcases ht with rfl | rfl | rfl | rfl
  · simp [Transaction.wellFormed, construct_decodes, keyAndNonce, dinLength]
  · decide
  · decide
  · decide

/-- The state after the `CONSTRUCT`: an instance in `ABSORBING_AAD`. -/
def constructedInstance : State where
  engine :=
    { Engine.reset Config.cfg with
      S := constructedState Config.cfg (keyOperand Config.cfg keyAndNonce)
        (nonceOperand Config.cfg Config.cfg.KEY_LEN keyAndNonce)
      K := keyOperand Config.cfg keyAndNonce
      phase := .absorbingAad }
  din := []
  input := (emptyMessage.drop 1).map .command
  output := [⟨.none, false, .absorbingAad, false, .none, []⟩]

/-- The state after the `FINISH`. -/
def finishedInstance : State :=
  State.complete { constructedInstance with input := (emptyMessage.drop 2).map .command }
    (perform Config.cfg .finish [] constructedInstance.engine)

/-- The state after the `AUTHENTICATE`. -/
def authenticatedInstance : State :=
  State.complete { finishedInstance with input := (emptyMessage.drop 3).map .command }
    (perform Config.cfg .authenticate [] finishedInstance.engine)

/-- The state after the `RELEASE`. -/
def releasedInstance : State :=
  State.complete { authenticatedInstance with input := [] } (perform Config.cfg .release [] authenticatedInstance.engine)

theorem emptyMessage_construct : step (runStart emptyMessage) = .next constructedInstance := by
  rw [step_decoded rfl (emptyMessage_isRun _ List.mem_cons_self) construct_decodes, perform_construct rfl rfl rfl]
  rfl

theorem emptyMessage_states :
    runStates emptyMessage =
      [runStart emptyMessage, constructedInstance, finishedInstance, authenticatedInstance, releasedInstance] := by
  have hf : step constructedInstance = .next finishedInstance := step_decoded (x := ⟨0x05000000#32, []⟩) rfl (by decide) rfl
  have ha : step finishedInstance = .next authenticatedInstance :=
    step_decoded (x := ⟨0x06000000#32, []⟩) rfl (by decide) rfl
  have hr : step authenticatedInstance = .next releasedInstance :=
    step_decoded (x := ⟨0x08000000#32, []⟩) rfl (by decide) rfl
  show trajectory 4 _ = _
  rw [trajectory_next _ emptyMessage_construct, trajectory_next _ hf, trajectory_next _ ha, trajectory_next _ hr]
  rfl

/-- The whole run is complete; neither the empty run nor one that ends in another command is. -/
theorem witness_RunsAndCompleteRuns :
    runComplete emptyMessage ∧ ¬ runComplete [] ∧ ¬ runComplete (emptyMessage.take 3) := by
  refine ⟨⟨emptyMessage_isRun, _, rfl, by decide⟩, fun h => ?_, fun h => ?_⟩
  · obtain ⟨-, _, h, -⟩ := h
    cases h
  · obtain ⟨-, _, h, hr⟩ := h
    cases h
    exact absurd hr (by decide)

theorem emptyMessage_begins : instanceBegins emptyMessage 0 := by
  refine ⟨_, constructedInstance, _, rfl, ?_, by rw [emptyMessage_states]; rfl, rfl, rfl⟩
  simp [Transaction.isConstruct, construct_decodes]

theorem witness_MessageCompletesByTag : isRun emptyMessage ∧ messageComplete emptyMessage 0 := by
  refine ⟨emptyMessage_isRun, emptyMessage_begins, 3, authenticatedInstance, ⟨by omega, fun k h0 h3 t ht => ?_⟩,
    by rw [emptyMessage_states]; rfl, rfl, rfl⟩
  obtain rfl | rfl : k = 1 ∨ k = 2 := by omega
  · cases ht
    decide
  · cases ht
    decide

end Sys2Proof.Tests
end

section
/-! PROOFS. The host's events and the step that takes them (spec/00_scope.md R5, spec/20_memory.md R60, R61). -/

namespace Sys2Proof.Machine

/-- A reset event at the head of the host's list takes effect. -/
theorem step_reset {s : State} {rest : List HostEvent} (hin : s.input = .reset :: rest) :
    step s = .next (s.resetEvent rest) := by
  simp only [step, nextEvent, hin]

/-- A well-formed transaction is answered by a completed command, whether or not its word decodes. -/
theorem step_command {s : State} {x : Transaction} {rest : List HostEvent}
    (hin : s.input = .command x :: rest) (hw : x.wellFormed = true) :
    ∃ r : Reply Config.cfg, step s = .next ((s.accept x rest).complete r) := by
  cases hd : decode x.cmd with
  | ok i => exact ⟨_, step_decoded hin hw hd⟩
  | error err => exact ⟨_, step_undecoded hin hd⟩

/-- Settles O12: a reset takes effect, and a well-formed transaction completes, legal word or not; both take the event off
the list. -/
theorem wellFormedEventsAreTaken : Obligations.WellFormedEventsAreTaken := by
  intro s ev rest hin hw
  cases ev with
  | reset => exact ⟨_, step_reset hin, State.resetEvent_input s rest⟩
  | command x =>
    obtain ⟨r, hstep⟩ := step_command hin hw
    exact ⟨_, hstep, by simp⟩

end Sys2Proof.Machine
end

section
/-! PROOFS. What a command can do, said once: the phases in which each command is legal, and error or success of a command
(spec/42_duplex_commands.md R148, R149, spec/60_exceptions.md R192 to R196). -/

namespace Sys2Proof.Machine

-- The rows of the table of R148.

theorem phaseLegal_construct {klen nlen : Nat} {p : Phase} {d : Dir} :
    phaseLegal (.construct klen nlen) p d = true ↔ p = .idle := by
  cases p <;> simp [phaseLegal]

theorem phaseLegal_ingestAad {len : Nat} {p : Phase} {d : Dir} :
    phaseLegal (.ingestAad len) p d = true ↔ p = .absorbingAad := by
  cases p <;> simp [phaseLegal]

theorem phaseLegal_encrypt {len : Nat} {p : Phase} {d : Dir} :
    phaseLegal (.encrypt len) p d = true ↔ p = .absorbingAad ∨ (p = .absorbingPayload ∧ d = .enc) := by
  cases p <;> cases d <;> simp [phaseLegal]

theorem phaseLegal_decrypt {len : Nat} {p : Phase} {d : Dir} :
    phaseLegal (.decrypt len) p d = true ↔ p = .absorbingAad ∨ (p = .absorbingPayload ∧ d = .dec) := by
  cases p <;> cases d <;> simp [phaseLegal]

theorem phaseLegal_finish {p : Phase} {d : Dir} :
    phaseLegal .finish p d = true ↔ p = .absorbingAad ∨ p = .absorbingPayload := by
  cases p <;> simp [phaseLegal]

theorem phaseLegal_authenticate {p : Phase} {d : Dir} : phaseLegal .authenticate p d = true ↔ p = .finalized := by
  cases p <;> simp [phaseLegal]

theorem phaseLegal_verify {len : Nat} {p : Phase} {d : Dir} :
    phaseLegal (.verify len) p d = true ↔ p = .finalized := by
  cases p <;> simp [phaseLegal]

/-- The command is executed to its end: it is permitted, and the lengths it declares are the configured ones. -/
structure Runs {c : Cfg} (i : Instr) (e : Engine c) : Prop where
  permitted : permitted i e = true
  constructLengths : ∀ klen nlen, i = .construct klen nlen → klen = c.KEY_LEN ∧ nlen = c.NONCE_LEN
  tagLength : ∀ len, i = .verify len → len = c.TAG_LEN

variable {c : Cfg} {e : Engine c} {din : List Byte}

/-- A command either raises an error, which `RELEASE` never does, or runs and ends without one. -/
theorem perform_raises_or_runs (i : Instr) (din : List Byte) (e : Engine c) :
    (∃ err, err ≠ .none ∧ i ≠ .release ∧ perform c i din e = raise err e) ∨
      (Runs i e ∧ (perform c i din e).err = .none) := by
  refine perform_cases i din e
    (fun q => (∃ err, err ≠ .none ∧ i ≠ .release ∧ q = raise err e) ∨ (Runs i e ∧ q.err = .none)) ?_ ?_ ?_ ?_ ?_
  · intro hp
    refine .inl ⟨.protocolViolation, by simp, ?_, rfl⟩
    rintro rfl
    simp [permitted_release] at hp
  · exact fun _ _ hi _ _ => .inl ⟨.invalidKeyLength, by simp, by simp [hi], rfl⟩
  · exact fun _ _ hi _ _ _ => .inl ⟨.invalidNonceLength, by simp, by simp [hi], rfl⟩
  · exact fun _ hi _ _ => .inl ⟨.invalidTagLength, by simp, by simp [hi], rfl⟩
  · exact fun hp hc hv herr => .inr ⟨⟨hp, hc, hv⟩, herr⟩

/-- Success means that the command ran. -/
theorem runs_of_success {i : Instr} (h : (perform c i din e).err = .none) : Runs i e := by
  obtain ⟨err, hne, -, hq⟩ | ⟨hr, -⟩ := perform_raises_or_runs i din e
  · rw [hq] at h
    exact absurd h hne
  · exact hr

namespace Runs

/-- What runs, but `RELEASE`, runs in a phase and with a direction that the table admits. -/
theorem legal {i : Instr} (h : Runs i e) (hi : i ≠ .release) : phaseLegal i e.phase e.dir = true :=
  (permitted_facts hi h.permitted).2

theorem construct_phase {klen nlen : Nat} (h : Runs (.construct klen nlen) e) : e.phase = .idle :=
  phaseLegal_construct.1 (h.legal (by simp))

theorem ingestAad_phase {len : Nat} (h : Runs (.ingestAad len) e) : e.phase = .absorbingAad :=
  phaseLegal_ingestAad.1 (h.legal (by simp))

theorem encrypt_phase {len : Nat} (h : Runs (.encrypt len) e) :
    e.phase = .absorbingAad ∨ (e.phase = .absorbingPayload ∧ e.dir = .enc) :=
  phaseLegal_encrypt.1 (h.legal (by simp))

theorem decrypt_phase {len : Nat} (h : Runs (.decrypt len) e) :
    e.phase = .absorbingAad ∨ (e.phase = .absorbingPayload ∧ e.dir = .dec) :=
  phaseLegal_decrypt.1 (h.legal (by simp))

theorem finish_phase (h : Runs .finish e) : e.phase = .absorbingAad ∨ e.phase = .absorbingPayload :=
  phaseLegal_finish.1 (h.legal (by simp))

theorem authenticate_phase (h : Runs .authenticate e) : e.phase = .finalized :=
  phaseLegal_authenticate.1 (h.legal (by simp))

theorem verify_phase {len : Nat} (h : Runs (.verify len) e) : e.phase = .finalized :=
  phaseLegal_verify.1 (h.legal (by simp))

end Runs

-- `FINISH`

/-- What `FINISH` does before the payload flush: in `ABSORBING_AAD` the AAD flush, in `ABSORBING_PAYLOAD` nothing (R154). -/
def closeAad (c : Cfg) (e : Engine c) : Engine c := if e.phase = .absorbingAad then flushAad c e else e

theorem perform_finish_closeAad (hp : permitted .finish e = true) :
    perform c .finish din e =
      succeed { (flushPay c (closeAad c e)).1 with phase := .finalized } (flushPay c (closeAad c e)).2 :=
  perform_finish hp

theorem closeAad_aadPhase (h : e.phase = .absorbingAad) : closeAad c e = flushAad c e := if_pos h
theorem closeAad_other (h : e.phase ≠ .absorbingAad) : closeAad c e = e := if_neg h

@[simp] theorem closeAad_K (e : Engine c) : (closeAad c e).K = e.K := by unfold closeAad; split <;> rfl
@[simp] theorem closeAad_void (e : Engine c) : (closeAad c e).void = e.void := by unfold closeAad; split <;> rfl
@[simp] theorem closeAad_dir (e : Engine c) : (closeAad c e).dir = e.dir := by unfold closeAad; split <;> rfl
@[simp] theorem closeAad_pay (e : Engine c) : (closeAad c e).pay = e.pay := by unfold closeAad; split <;> rfl

end Sys2Proof.Machine
end

section
/-! PROOFS. The invariant of the state under every step (spec/10_state.md sections 2 to 7), and how many bytes a command
outputs (spec/30_encoding.md R76). -/

namespace Sys2Proof.Machine

variable {c : Cfg} {e : Engine c}

-- The entry to the payload by phase

theorem enterPayload_phase (d : Dir) (h : e.phase = .absorbingAad ∨ e.phase = .absorbingPayload) :
    (enterPayload c d e).phase = .absorbingPayload := by
  obtain hp | hp := h
  · rw [enterPayload_aadPhase e d hp]
  · rw [enterPayload_other e d (by simp [hp]), hp]

-- Each operation keeps the invariant of the engine.

theorem Engine.reset_inv (c : Cfg) : (Engine.reset c).Inv where
  aad_pos := Nat.zero_le _
  pay_pos := Nat.zero_le _
  idle := fun _ => rfl
  aad_empty := fun _ => rfl
  pay_empty := fun _ => rfl
  key_gone := by simp
  dir_none := by simp
  dir_latched := by simp

theorem Engine.Inv.afterError (h : e.Inv) : e.afterError.Inv := by
  by_cases hp : e.phase = .idle
  · rwa [afterError_idle e hp]
  · exact { h with idle := fun hi => absurd hi hp }

theorem Engine.Inv.feedAad (h : e.Inv) (hp : e.phase = .absorbingAad) (data : List Byte) :
    (feedAad c data e).Inv where
  aad_pos := feed_pos_le _ _ _ c.AAD_WIDTH_pos h.aad_pos
  pay_pos := h.pay_pos
  idle := by simp [hp]
  aad_empty := by simp [hp]
  pay_empty := h.pay_empty
  key_gone := h.key_gone
  dir_none := h.dir_none
  dir_latched := h.dir_latched

theorem Engine.Inv.enterPayload (h : e.Inv) {d : Dir} (hd : d ≠ .none) : (enterPayload c d e).Inv := by
  by_cases hp : e.phase = .absorbingAad
  · rw [enterPayload_aadPhase e d hp]
    exact
      { aad_pos := Nat.zero_le _
        pay_pos := h.pay_pos
        idle := by simp
        aad_empty := fun _ => rfl
        pay_empty := by simp
        key_gone := by simp
        dir_none := by simp
        dir_latched := fun _ => hd }
  · rwa [enterPayload_other e d hp]

theorem Engine.Inv.feedPay (h : e.Inv) (hp : e.phase = .absorbingPayload) (d : Dir) (data : List Byte) :
    (feedPay c d data e).1.Inv where
  aad_pos := h.aad_pos
  pay_pos := feed_pos_le _ _ _ c.PAY_WIDTH_pos h.pay_pos
  idle := by simp [hp]
  aad_empty := h.aad_empty
  pay_empty := by simp [hp]
  key_gone := h.key_gone
  dir_none := h.dir_none
  dir_latched := h.dir_latched

theorem Engine.Inv.payload (h : e.Inv) (hp : e.phase = .absorbingAad ∨ e.phase = .absorbingPayload) {d : Dir}
    (hd : d ≠ .none) (din : List Byte) : (payload c d din e).engine.Inv :=
  (h.enterPayload hd).feedPay (enterPayload_phase d hp) d din

/-- Both accumulators empty is all that the phases after `FINISH` ask for, the key aside. -/
theorem Engine.inv_of_finalized (hp : e.phase = .finalized) (ha : e.aad = Acc.empty c.AAD_WIDTH)
    (hy : e.pay = Acc.empty c.PAY_WIDTH) : e.Inv where
  aad_pos := by simp [ha]
  pay_pos := by simp [hy]
  idle := by simp [hp]
  aad_empty := fun _ => ha
  pay_empty := fun _ => hy
  key_gone := by simp [hp]
  dir_none := by simp [hp]
  dir_latched := by simp [hp]

theorem Engine.Inv.tagged (h : e.Inv) (hp : e.phase = .finalized) : (tagged c e).Inv where
  aad_pos := h.aad_pos
  pay_pos := h.pay_pos
  idle := by simp
  aad_empty := fun _ => h.aad_empty (by simp [hp])
  pay_empty := fun _ => h.pay_empty (by simp [hp])
  key_gone := fun _ => rfl
  dir_none := by simp
  dir_latched := by simp

/-- Every command keeps the invariant of the engine. -/
theorem perform_inv (i : Instr) (din : List Byte) (h : e.Inv) : (perform c i din e).engine.Inv := by
  obtain ⟨err, -, -, hq⟩ | ⟨hr, -⟩ := perform_raises_or_runs i din e
  · rw [hq, raise_engine]
    exact h.afterError
  cases i with
  | construct klen nlen =>
    obtain ⟨hk, hn⟩ := hr.constructLengths _ _ rfl
    rw [perform_construct hr.permitted hk hn, h.idle hr.construct_phase]
    exact
      { aad_pos := Nat.zero_le _
        pay_pos := Nat.zero_le _
        idle := by simp
        aad_empty := by simp
        pay_empty := fun _ => rfl
        key_gone := by simp
        dir_none := fun _ => rfl
        dir_latched := by simp }
  | ingestAad len =>
    rw [perform_ingestAad hr.permitted]
    exact h.feedAad hr.ingestAad_phase din
  | encrypt len =>
    rw [perform_encrypt hr.permitted]
    exact h.payload (hr.encrypt_phase.imp_right And.left) (by simp) din
  | decrypt len =>
    rw [perform_decrypt hr.permitted]
    exact h.payload (hr.decrypt_phase.imp_right And.left) (by simp) din
  | finish =>
    rw [perform_finish_closeAad hr.permitted]
    refine Engine.inv_of_finalized rfl ?_ rfl
    obtain hp | hp := hr.finish_phase
    · simp [closeAad_aadPhase hp]
    · simp [closeAad_other, hp, h.aad_empty]
  | authenticate =>
    rw [perform_authenticate hr.permitted]
    exact h.tagged hr.authenticate_phase
  | verify len =>
    rw [perform_verify hr.permitted (hr.tagLength _ rfl)]
    exact h.tagged hr.verify_phase
  | release => exact Engine.reset_inv c

-- How many bytes are emitted

theorem payBlock_out_length_le (d : Dir) (blk : List Byte) (S : c.Perm) :
    (payBlock c d blk S).2.length ≤ c.PAY_WIDTH := by
  have henc : (encBlock c blk S).2.length ≤ c.PAY_WIDTH := List.length_take_le ..
  cases d with
  | none => exact henc
  | enc => exact henc
  | dec =>
    simp only [payBlock, decBlock, xorStrings_length, List.length_take]
    omega

theorem lastBlock_out_length_le (d : Dir) (data : List Byte) (S : c.Perm) :
    (lastBlock c d data S).2.length ≤ data.length := by
  cases d with
  | none => exact List.length_take_le ..
  | enc => exact List.length_take_le ..
  | dec =>
    simp only [lastBlock, xorStrings_length]
    omega

theorem Acc.content_length_le {width : Nat} (a : Acc width) : a.content.length ≤ a.pos := List.length_take_le ..

section
variable {width : Nat} {cb : Callback c} (hcb : ∀ blk S, (cb blk S).2.length ≤ width)
include hcb

/-- A hand-over emits at most what it takes out of the buffer. -/
theorem handOver_out_length_le (f : Feeding c width) :
    (handOver cb f).out.length + (handOver cb f).acc.pos ≤ f.out.length + f.acc.pos := by
  by_cases hp : f.acc.pos = width
  · have := hcb f.acc.buf.toList f.S
    simp only [handOver_full cb f hp, List.length_append]
    omega
  · rw [handOver_notFull cb f hp]

/-- A feed emits at most the bytes that were waiting and those it is given. -/
theorem feed_out_length_le (data : List Byte) (f : Feeding c width) :
    (feed cb data f).out.length + (feed cb data f).acc.pos ≤ f.out.length + f.acc.pos + data.length := by
  induction data generalizing f with
  | nil => exact Nat.le_refl _
  | cons b data ih =>
    have hrest := ih (feedByte cb f b)
    have hhand := handOver_out_length_le hcb f
    simp only [feed_cons, List.length_cons, feedByte, Acc.push_pos] at hrest ⊢
    omega

end

theorem payload_dout_length_le (d : Dir) (din : List Byte) (e : Engine c) :
    (payload c d din e).dout.length ≤ e.pay.pos + din.length := by
  have h := feed_out_length_le (payBlock_out_length_le d) din
    { acc := (enterPayload c d e).pay, S := (enterPayload c d e).S, out := [] }
  rw [enterPayload_pay] at h
  simp only [List.length_nil] at h
  simp only [payload, feedPay, enterPayload_pay, succeed_dout]
  omega

theorem flushPay_out_length_le (e : Engine c) : (flushPay c e).2.length ≤ e.pay.pos := by
  have hhand := handOver_out_length_le (payBlock_out_length_le e.dir) { acc := e.pay, S := e.S, out := [] }
  have hlast := lastBlock_out_length_le e.dir
    (handOver (payBlock c e.dir) { acc := e.pay, S := e.S, out := [] }).acc.content
    (handOver (payBlock c e.dir) { acc := e.pay, S := e.S, out := [] }).S
  have hcontent := Acc.content_length_le (handOver (payBlock c e.dir) { acc := e.pay, S := e.S, out := [] }).acc
  simp only [List.length_nil] at hhand
  simp only [flushPay, List.length_append]
  omega

/-- A command outputs the payload bytes waiting and its own input at most, or a tag. -/
theorem perform_dout_length_le (i : Instr) (din : List Byte) (e : Engine c) :
    (perform c i din e).dout.length ≤ max (e.pay.pos + din.length) c.TAG_LEN := by
  obtain ⟨err, -, -, hq⟩ | ⟨hr, -⟩ := perform_raises_or_runs i din e
  · simp [hq]
  cases i with
  | construct klen nlen =>
    obtain ⟨hk, hn⟩ := hr.constructLengths _ _ rfl
    simp [perform_construct hr.permitted hk hn]
  | ingestAad len => simp [perform_ingestAad hr.permitted]
  | encrypt len =>
    rw [perform_encrypt hr.permitted]
    exact le_max_of_le_left (payload_dout_length_le ..)
  | decrypt len =>
    rw [perform_decrypt hr.permitted]
    exact le_max_of_le_left (payload_dout_length_le ..)
  | finish =>
    rw [perform_finish_closeAad hr.permitted]
    have hout := flushPay_out_length_le (closeAad c e)
    rw [closeAad_pay] at hout
    exact le_max_of_le_left (Nat.le_add_right_of_le hout)
  | authenticate => simp [perform_authenticate hr.permitted]
  | verify len => simp [perform_verify hr.permitted (hr.tagLength _ rfl)]
  | release => simp [perform_release]

-- Responses

theorem raise_response_legal (err : ErrCode) (e : Engine c) : (raise err e).response.Legal where
  err_dout := fun _ => rfl
  err_matched := fun _ => rfl
  outLen_le := Nat.zero_le _

theorem perform_response_legal (i : Instr) {din : List Byte} (hp : e.pay.pos ≤ c.PAY_WIDTH)
    (hd : din.length ≤ 65535) : (perform c i din e).response.Legal := by
  have hlen := perform_dout_length_le i din e
  obtain ⟨err, -, -, hq⟩ | ⟨-, hok⟩ := perform_raises_or_runs i din e
  · rw [hq]
    exact raise_response_legal err e
  · have hpay := c.PAY_WIDTH_field
    have htag := c.TAG_LEN_field
    exact
      { err_dout := fun hne => absurd hok hne
        err_matched := fun hne => absurd hok hne
        outLen_le := by
          simp only [Response.outLen, Reply.response_dout]
          omega }

/-- A decoded word declares at most 65535 input bytes (R70 to R73). -/
theorem dinLength_le_of_decode {w : CmdWord} {i : Instr} (h : decode w = .ok i) : dinLength i ≤ 65535 := by
  have hlt := decode_fields_lt w
  obtain ⟨-, h⟩ := decode_ok h
  rcases h with ⟨-, rfl⟩ | ⟨-, rfl⟩ | ⟨-, rfl⟩ | ⟨-, rfl⟩ | ⟨-, -, rfl⟩ | ⟨-, -, rfl⟩ | ⟨-, rfl⟩ | ⟨-, -, rfl⟩ <;>
    simp only [dinLength] <;> omega

-- The state of the model

/-- A command that leaves a good engine and gives a legal response keeps the invariant; its `DIN` is consumed. -/
theorem State.Inv.complete {s : State} {q : Reply Config.cfg} (he : q.engine.Inv) (hr : q.response.Legal)
    (ho : ∀ r ∈ s.output, r.Legal) : (s.complete q).Inv where
  engine := he
  din := rfl
  output := by
    simp only [State.complete_output, List.mem_append, List.mem_singleton]
    rintro r (hmem | rfl)
    · exact ho r hmem
    · exact hr

/-- Settles O48: at reset the engine meets its invariant, and the model's own fields are empty (log entry 3). -/
theorem resetMeetsInvariant : Obligations.ResetMeetsInvariant where
  engine := Engine.reset_inv Config.cfg
  din := rfl
  output := by simp [State.reset]

/-- Settles O47: by the four things a step can do. -/
theorem stepKeepsInvariant : Obligations.StepKeepsInvariant := by
  intro s t hs h
  obtain ⟨-, rfl⟩ | ⟨rest, -, rfl⟩ | ⟨tr, rest, i, -, hdec, hexec⟩ | ⟨tr, rest, err, -, -, rfl⟩ := step_next h
  · exact hs
  · exact { engine := Engine.reset_inv Config.cfg, din := hs.din, output := hs.output }
  · obtain ⟨hlen, rfl⟩ := exec_next hexec
    have hdin : tr.din.length ≤ 65535 := hlen ▸ dinLength_le_of_decode hdec
    exact .complete (perform_inv i tr.din hs.engine) (perform_response_legal i hs.engine.pay_pos hdin) hs.output
  · refine .complete ?_ (raise_response_legal ..) hs.output
    rw [raise_engine]
    exact hs.engine.afterError

/-- Settles O10: each element of `Engine.reset` (R35). -/
theorem resetValues : Obligations.ResetValues := by
  refine ⟨?_, ?_, rfl, rfl, rfl, ?_, rfl, ?_, rfl⟩ <;> intro i <;> simp [State.reset]

end Sys2Proof.Machine
end

section
/-! PROOFS. What each command does to `PHASE`, `VOID`, `DIR`, the key and the accumulators (spec/10_state.md sections 3, 4
and 7, spec/42_duplex_commands.md R150 to R157). -/

namespace Sys2Proof.Machine

variable {c : Cfg} (e : Engine c) (d : Dir) (din : List Byte)

-- A payload command that runs
@[simp] theorem payload_K : (payload c d din e).engine.K = e.K := enterPayload_K e d
@[simp] theorem payload_void : (payload c d din e).engine.void = e.void := enterPayload_void e d

variable {e}

theorem payload_phase (h : e.phase = .absorbingAad ∨ e.phase = .absorbingPayload) :
    (payload c d din e).engine.phase = .absorbingPayload := enterPayload_phase d h

theorem payload_dir : (payload c d din e).engine.dir = if e.phase = .absorbingAad then d else e.dir := by
  by_cases hp : e.phase = .absorbingAad
  · simp [payload, enterPayload_aadPhase e d hp, hp]
  · simp [payload, enterPayload_other e d hp, hp]

/-- A later payload command only feeds. -/
theorem payload_of_later (h : e.phase ≠ .absorbingAad) :
    payload c d din e = succeed (feedPay c d din e).1 (feedPay c d din e).2 := by
  rw [payload, enterPayload_other e d h]

/-- While `VOID = 1` nothing but `RELEASE` is permitted (R26). -/
theorem permitted_of_void {i : Instr} (hv : e.void = true) (hi : i ≠ .release) : permitted i e = false := by
  simp [permitted_eq e hi, hv]

/-- Settles O45: the command is not permitted, and error entry leaves a void engine as it is. -/
theorem voidAdmitsOnlyRelease : Obligations.VoidAdmitsOnlyRelease := by
  intro i s hv hi hd
  have hq : perform Config.cfg i s.din s.engine = raise .protocolViolation s.engine :=
    perform_no (permitted_of_void hv hi)
  refine ⟨_, _, exec_of_din hd, answered_complete _ _, ?_, ?_⟩
  · rw [hq]
    rfl
  · rw [State.complete_engine, hq, raise_engine, afterError_void _ hv]

/-- Settles O50: an error leaves `PHASE`, and each command that runs but `RELEASE` goes to a phase no lower than those the table
admits it in. -/
theorem phaseIsMonotonic : Obligations.PhaseIsMonotonic := by
  intro i s t h
  obtain ⟨-, rfl⟩ := exec_next h
  rw [State.complete_engine]
  obtain ⟨err, -, -, hq⟩ | ⟨hr, -⟩ := perform_raises_or_runs i s.din s.engine
  · rw [hq]
    exact .inr (Nat.le_refl _)
  have hpay (d : Dir) (hp : s.engine.phase = .absorbingAad ∨ s.engine.phase = .absorbingPayload) :
      (phaseCode s.engine.phase).toNat ≤ (phaseCode (payload Config.cfg d s.din s.engine).engine.phase).toNat := by
    rw [payload_phase d s.din hp]
    obtain hp | hp := hp <;> simp [hp, phaseCode]
  cases i with
  | construct klen nlen =>
    right
    simp [hr.construct_phase, phaseCode]
  | ingestAad len =>
    right
    simp [perform_ingestAad hr.permitted]
  | encrypt len =>
    right
    rw [perform_encrypt hr.permitted]
    exact hpay .enc (hr.encrypt_phase.imp_right And.left)
  | decrypt len =>
    right
    rw [perform_decrypt hr.permitted]
    exact hpay .dec (hr.decrypt_phase.imp_right And.left)
  | finish =>
    right
    rw [perform_finish_closeAad hr.permitted]
    obtain hp | hp := hr.finish_phase <;> simp [hp, phaseCode]
  | authenticate =>
    right
    simp [perform_authenticate hr.permitted, hr.authenticate_phase, phaseCode]
  | verify len =>
    right
    simp [perform_verify hr.permitted (hr.tagLength _ rfl), hr.verify_phase, phaseCode]
  | release => exact .inl ⟨rfl, rfl⟩

/-- Settles O51: an error leaves the key, and so does each command that runs and neither loads nor clears it. -/
theorem keyLifetime : Obligations.KeyLifetime := by
  intro i s t r h ha
  obtain ⟨hd, rfl, rfl⟩ := exec_answered h ha
  simp only [State.complete_engine, Reply.response_err]
  obtain ⟨err, hne, hi, hq⟩ | ⟨hr, hok⟩ := perform_raises_or_runs i s.din s.engine
  · rw [hq]
    cases i <;> simp [hne] at hi ⊢
  simp only [hok]
  cases i with
  | construct klen nlen =>
    obtain ⟨hk, hn⟩ := hr.constructLengths _ _ rfl
    have hlen : 0 + Config.cfg.KEY_LEN ≤ s.din.length := by
      simp only [dinLength] at hd
      omega
    simp [perform_construct hr.permitted hk hn, hr.construct_phase, keyOperand, takeBytes_toList _ _ _ hlen]
  | ingestAad len => simp [perform_ingestAad hr.permitted]
  | encrypt len => simp [perform_encrypt hr.permitted]
  | decrypt len => simp [perform_decrypt hr.permitted]
  | finish => simp [perform_finish_closeAad hr.permitted]
  | authenticate => simp [perform_authenticate hr.permitted, hr.authenticate_phase]
  | verify len => simp [perform_verify hr.permitted (hr.tagLength _ rfl), hr.verify_phase]
  | release => rfl

/-- Settles O52: an error leaves `DIR`, and of the commands that run only a first payload command, `CONSTRUCT` and `RELEASE`
write it. -/
theorem directionLatch : Obligations.DirectionLatch := by
  intro i s t r h ha
  obtain ⟨-, rfl, rfl⟩ := exec_answered h ha
  simp only [State.complete_engine, Reply.response_err]
  obtain ⟨err, hne, hi, hq⟩ | ⟨hr, hok⟩ := perform_raises_or_runs i s.din s.engine
  · rw [hq]
    cases i <;> simp [hne] at hi ⊢
  simp only [hok]
  cases i with
  | construct klen nlen =>
    obtain ⟨hk, hn⟩ := hr.constructLengths _ _ rfl
    simp [perform_construct hr.permitted hk hn, hr.construct_phase]
  | ingestAad len => simp [perform_ingestAad hr.permitted]
  | encrypt len => simp [perform_encrypt hr.permitted, payload_dir]
  | decrypt len => simp [perform_decrypt hr.permitted, payload_dir]
  | finish => simp [perform_finish_closeAad hr.permitted]
  | authenticate => simp [perform_authenticate hr.permitted]
  | verify len => simp [perform_verify hr.permitted (hr.tagLength _ rfl)]
  | release => rfl

/-- Settles O53: the port by what it means that a command is answered, the engine by what each command does once it runs. -/
theorem commandFrames : Obligations.CommandFrames := by
  intro i s t r h ha hok
  obtain ⟨-, rfl, rfl⟩ := exec_answered h ha
  have hr : Runs i s.engine := runs_of_success hok
  refine ⟨rfl, fun q hq => ?_, ?_⟩
  · rw [State.complete_output]
    exact List.mem_append_left _ hq
  rw [State.complete_engine]
  cases i with
  | construct klen nlen =>
    obtain ⟨hk, hn⟩ := hr.constructLengths _ _ rfl
    simp [perform_construct hr.permitted hk hn]
  | ingestAad len => simp [perform_ingestAad hr.permitted]
  | encrypt len =>
    rw [perform_encrypt hr.permitted]
    exact ⟨payload_K .., payload_void .., fun hp => by simp [payload_of_later _ _ hp]⟩
  | decrypt len =>
    rw [perform_decrypt hr.permitted]
    exact ⟨payload_K .., payload_void .., fun hp => by simp [payload_of_later _ _ hp]⟩
  | finish =>
    rw [perform_finish_closeAad hr.permitted]
    exact ⟨closeAad_K _, closeAad_void _, closeAad_dir _, fun hp => by simp [closeAad_other hp]⟩
  | authenticate => simp [perform_authenticate hr.permitted]
  | verify len => simp [perform_verify hr.permitted (hr.tagLength _ rfl)]
  | release => trivial

end Sys2Proof.Machine
end

section
/-! PROOFS. Buffer bytes at or beyond a cursor are read by no rule (spec/10_state.md R28, R29): every operation takes states that
agree below the cursors to such states. -/

namespace Sys2Proof.Machine

variable {c : Cfg} {width : Nat}

-- Accumulators and feeding

theorem Acc.Agrees.buf_eq {a b : Acc width} (h : a.Agrees b) (hp : a.pos = width) : a.buf = b.buf := by
  have hc := h.content
  rw [a.content_full hp, b.content_full (h.pos ▸ hp)] at hc
  exact Vector.toList_inj.1 hc

theorem Acc.Agrees.push {a b : Acc width} (h : a.Agrees b) (hp : a.pos < width) (x : Byte) :
    (a.push x).Agrees (b.push x) where
  pos := by simp [h.pos]
  content := by rw [a.push_content x hp, b.push_content x (h.pos ▸ hp), h.content]

/-- An empty content agrees with any other, whatever the buffers hold. -/
theorem Acc.agrees_of_pos_zero {a b : Acc width} (ha : a.pos = 0) (hb : b.pos = 0) : a.Agrees b where
  pos := by rw [ha, hb]
  content := by simp [Acc.content, ha, hb]

/-- Two feedings with accumulators that agree, in the same state, with the same bytes emitted. -/
structure Feeding.Agrees (f g : Feeding c width) : Prop where
  acc : f.acc.Agrees g.acc
  S : f.S = g.S
  out : f.out = g.out

namespace Feeding.Agrees
variable {f g : Feeding c width}

theorem handOver (h : f.Agrees g) (cb : Callback c) : (handOver cb f).Agrees (handOver cb g) := by
  by_cases hp : f.acc.pos = width
  · have hq : g.acc.pos = width := h.acc.pos ▸ hp
    rw [handOver_full cb f hp, handOver_full cb g hq, h.acc.buf_eq hp, h.S, h.out]
    exact ⟨Acc.agrees_of_pos_zero rfl rfl, rfl, rfl⟩
  · have hq : g.acc.pos ≠ width := h.acc.pos ▸ hp
    rwa [handOver_notFull cb f hp, handOver_notFull cb g hq]

theorem feedByte (h : f.Agrees g) (cb : Callback c) (hw : 0 < width) (hp : f.acc.pos ≤ width) (x : Byte) :
    (feedByte cb f x).Agrees (feedByte cb g x) where
  acc := (h.handOver cb).acc.push (handOver_pos_lt cb f hw hp) x
  S := (h.handOver cb).S
  out := (h.handOver cb).out

theorem feed (h : f.Agrees g) (cb : Callback c) (hw : 0 < width) (hp : f.acc.pos ≤ width) (data : List Byte) :
    (feed cb data f).Agrees (feed cb data g) := by
  induction data generalizing f g with
  | nil => exact h
  | cons x data ih => exact ih (h.feedByte cb hw hp x) (feedByte_pos cb f x hw hp).2

end Feeding.Agrees

-- Engines

namespace Engine.Agrees
variable {e f : Engine c}

theorem aadFeeding (h : e.Agrees f) :
    Feeding.Agrees { acc := e.aad, S := e.S, out := [] } { acc := f.aad, S := f.S, out := [] } :=
  ⟨h.aad, h.S, rfl⟩

theorem payFeeding (h : e.Agrees f) :
    Feeding.Agrees { acc := e.pay, S := e.S, out := [] } { acc := f.pay, S := f.S, out := [] } :=
  ⟨h.pay, h.S, rfl⟩

theorem feedAad (h : e.Agrees f) (hp : e.aad.pos ≤ c.AAD_WIDTH) (data : List Byte) :
    (feedAad c data e).Agrees (feedAad c data f) :=
  have hf := h.aadFeeding.feed (absorbBlock c) c.AAD_WIDTH_pos hp data
  { h with S := hf.S, aad := hf.acc }

theorem feedPay (h : e.Agrees f) (hp : e.pay.pos ≤ c.PAY_WIDTH) (d : Dir) (data : List Byte) :
    (feedPay c d data e).1.Agrees (feedPay c d data f).1 ∧ (feedPay c d data e).2 = (feedPay c d data f).2 :=
  have hf := h.payFeeding.feed (payBlock c d) c.PAY_WIDTH_pos hp data
  ⟨{ h with S := hf.S, pay := hf.acc }, hf.out⟩

/-- The AAD flush reads the accumulator through its cursor, its content and a hand-over. -/
theorem flushAad_S (h : e.Agrees f) : (flushAad c e).S = (flushAad c f).S := by
  have hf := h.aadFeeding.handOver (absorbBlock c)
  simp only [flushAad, hf.S, hf.acc.content, h.aad.pos]

theorem flushAad (h : e.Agrees f) : (flushAad c e).Agrees (flushAad c f) :=
  { h with S := h.flushAad_S, aad := ⟨rfl, rfl⟩ }

theorem flushPay_eq (h : e.Agrees f) :
    (flushPay c e).1.S = (flushPay c f).1.S ∧ (flushPay c e).2 = (flushPay c f).2 := by
  have hf := h.payFeeding.handOver (payBlock c f.dir)
  simp only [flushPay, h.dir, hf.S, hf.acc.content, hf.out, and_self]

theorem flushPay (h : e.Agrees f) : (flushPay c e).1.Agrees (flushPay c f).1 :=
  { h with S := h.flushPay_eq.1, pay := ⟨rfl, rfl⟩ }

theorem enterPayload (h : e.Agrees f) (d : Dir) : (enterPayload c d e).Agrees (enterPayload c d f) := by
  by_cases hp : e.phase = .absorbingAad
  · rw [enterPayload_aadPhase e d hp, enterPayload_aadPhase f d (h.phase ▸ hp)]
    exact { h.flushAad with phase := rfl, dir := rfl }
  · rwa [enterPayload_other e d hp, enterPayload_other f d (h.phase ▸ hp)]

theorem closeAad (h : e.Agrees f) : (closeAad c e).Agrees (closeAad c f) := by
  by_cases hp : e.phase = .absorbingAad
  · rw [closeAad_aadPhase hp, closeAad_aadPhase (h.phase ▸ hp)]
    exact h.flushAad
  · rwa [closeAad_other hp, closeAad_other (h.phase ▸ hp)]

theorem tagState_eq (h : e.Agrees f) : tagState c e = tagState c f := by
  rw [tagState, tagState, h.S, h.K]

theorem tagOf_eq (h : e.Agrees f) : tagOf c e = tagOf c f := by
  rw [tagOf, tagOf, h.tagState_eq, h.K]

theorem tagged (h : e.Agrees f) : (tagged c e).Agrees (tagged c f) :=
  { h with S := h.tagState_eq, K := rfl, phase := rfl }

theorem permitted_eq (h : e.Agrees f) (i : Instr) : permitted i e = permitted i f := by
  unfold permitted
  rw [h.void, h.phase, h.dir]

end Engine.Agrees

-- Replies

/-- Two replies that report the same and leave engines that agree. -/
structure Reply.Agrees (q r : Reply c) : Prop where
  engine : q.engine.Agrees r.engine
  err : q.err = r.err
  matched : q.matched = r.matched
  dout : q.dout = r.dout

theorem Reply.Agrees.response_eq {q r : Reply c} (h : q.Agrees r) : q.response = r.response := by
  rw [Reply.response, Reply.response, h.err, h.engine.void, h.engine.phase, h.matched, h.engine.dir, h.dout]

variable {e f : Engine c}

theorem raise_agrees (h : e.Agrees f) (err : ErrCode) : (raise err e).Agrees (raise err f) where
  engine := { h with void := by rw [raise_void, raise_void, h.void, h.phase] }
  err := rfl
  matched := rfl
  dout := rfl

theorem succeed_agrees (h : e.Agrees f) {a b : List Byte} (hd : a = b) : (succeed e a).Agrees (succeed f b) :=
  ⟨h, rfl, rfl, hd⟩

theorem guarded_agrees (h : e.Agrees f) (i : Instr) {q r : Reply c} (hq : q.Agrees r) :
    (guarded i e q).Agrees (guarded i f r) := by
  unfold guarded
  rw [h.permitted_eq i]
  split
  · exact hq
  · exact raise_agrees h _

theorem payload_agrees (h : e.Agrees f) (hp : e.pay.pos ≤ c.PAY_WIDTH) (d : Dir) (din : List Byte) :
    (payload c d din e).Agrees (payload c d din f) := by
  have hfeed := (h.enterPayload d).feedPay (by rwa [enterPayload_pay]) d din
  exact succeed_agrees hfeed.1 hfeed.2

/-- Every command takes engines that agree to replies that agree. -/
theorem perform_agrees (i : Instr) (din : List Byte) (h : e.Agrees f) (ha : e.aad.pos ≤ c.AAD_WIDTH)
    (hp : e.pay.pos ≤ c.PAY_WIDTH) : (perform c i din e).Agrees (perform c i din f) := by
  cases i with
  | construct klen nlen =>
    refine guarded_agrees h _ ?_
    split
    · exact raise_agrees h _
    split
    · exact raise_agrees h _
    · refine succeed_agrees ?_ rfl
      exact
        { h with
          S := rfl, K := rfl, dir := rfl, phase := rfl
          aad := Acc.agrees_of_pos_zero rfl rfl, pay := Acc.agrees_of_pos_zero rfl rfl }
  | ingestAad len => exact guarded_agrees h _ (succeed_agrees (h.feedAad ha din) rfl)
  | encrypt len => exact guarded_agrees h _ (payload_agrees h hp .enc din)
  | decrypt len => exact guarded_agrees h _ (payload_agrees h hp .dec din)
  | finish =>
    refine guarded_agrees h _ (succeed_agrees ?_ h.closeAad.flushPay_eq.2)
    exact { h.closeAad.flushPay with phase := rfl }
  | authenticate => exact guarded_agrees h _ (succeed_agrees h.tagged (by rw [h.tagOf_eq]))
  | verify len =>
    refine guarded_agrees h _ ?_
    split
    · exact raise_agrees h _
    · exact { succeed_agrees h.tagged rfl with matched := by rw [h.tagOf_eq] }
  | release =>
    exact succeed_agrees ⟨rfl, rfl, rfl, rfl, rfl, ⟨rfl, rfl⟩, ⟨rfl, rfl⟩⟩ rfl

/-- Settles O57: the same command on engines that agree, with the same `DIN` and the same port. -/
theorem staleBufferBytesUnread : Obligations.StaleBufferBytesUnread := by
  intro i s u s' ha hp hag hdin hin hout h
  obtain ⟨hlen, rfl⟩ := exec_next h
  have hq := perform_agrees i s.din hag ha hp
  rw [hdin] at hlen
  rw [hdin] at hq
  refine ⟨_, exec_of_din hlen, ?_⟩
  simp only [State.complete_engine, State.complete_din, State.complete_input, State.complete_output, hdin]
  exact ⟨hq.engine, trivial, hin, by rw [hout, hq.response_eq]⟩

end Sys2Proof.Machine
end

section
/-! PROOFS. Words and rate bytes (spec/20_memory.md R52 to R54): `LoadWord` and `StoreWord` on bytes, and the rate after an XOR
of a byte string. -/

namespace Sys2Proof.Machine

variable {c : Cfg}

/-- Bit `i` of the concatenation of `l`, last byte first, is bit `i mod 8` of byte `i div 8`. -/
theorem concatBytes_reverse_bit (W : Nat) (l : List Byte) (i : Nat) (hi : i < W) :
    (concatBytes W l.reverse).getLsbD i = (l.getD (i / 8) 0#8).getLsbD (i % 8) := by
  induction l generalizing i with
  | nil => simp [concatBytes]
  | cons b l ih =>
    have hsnoc : concatBytes W (b :: l).reverse = (concatBytes W l.reverse <<< 8) ||| b.setWidth W := by
      simp [concatBytes]
    rw [hsnoc, BitVec.getLsbD_or, BitVec.getLsbD_shiftLeft, BitVec.getLsbD_setWidth]
    by_cases h8 : i < 8
    · simp [h8, hi, Nat.div_eq_of_lt h8, Nat.mod_eq_of_lt h8]
    · obtain ⟨j, rfl⟩ : ∃ j, i = j + 8 := ⟨i - 8, by omega⟩
      simp [hi, ih j (by omega)]

/-- Byte `j` from the low end of the concatenation of `l`, last byte first, is byte `j` of `l`. -/
theorem concatBytes_reverse_byte (W : Nat) (l : List Byte) (j : Nat) (hj : 8 * j + 8 ≤ W) :
    (concatBytes W l.reverse).extractLsb' (8 * j) 8 = l.getD j 0#8 := by
  apply BitVec.eq_of_getLsbD_eq
  intro t ht
  have hdiv : (8 * j + t) / 8 = j := by omega
  have hmod : (8 * j + t) % 8 = t := by omega
  rw [BitVec.getLsbD_extractLsb', concatBytes_reverse_bit W l _ (by omega), hdiv, hmod]
  simp [ht]

/-- `StoreWord` after `LoadWord` gives the string back (R52). -/
theorem storeWord_loadWord (d : List Byte) (hd : d.length = c.B) : storeWord c (loadWord c d) = d := by
  have hW := Cfg_W_eq c
  unfold storeWord loadWord
  cases c.BYTE_ORDER with
  | be =>
    apply List.ext_getElem (by simp [hd])
    intro j _ hj
    have hoff : c.W - 8 - 8 * j = 8 * (c.B - 1 - j) := by omega
    have hidx : d.length - 1 - (c.B - 1 - j) = j := by omega
    have hbyte := concatBytes_reverse_byte c.W d.reverse (c.B - 1 - j) (by omega)
    rw [List.reverse_reverse] at hbyte
    simp [hoff, hbyte, List.getElem?_reverse (show c.B - 1 - j < d.length by omega), hidx, hj]
  | le =>
    apply List.ext_getElem (by simp [hd])
    intro j _ hj
    simp [concatBytes_reverse_byte c.W d j (by omega), hj]

theorem storeWord_xor (v w : BitVec c.W) : storeWord c (v ^^^ w) = xorStrings (storeWord c v) (storeWord c w) := by
  unfold storeWord xorStrings
  cases c.BYTE_ORDER <;> simp [List.zipWith_map, List.zipWith_self, BitVec.extractLsb'_xor]

/-- Byte `k` of the rate is byte `k mod B` of word `k div B` (R53). -/
theorem rateBytes_getElem? (S : c.Perm) (k : Nat) (hk : k < c.R_WORDS * c.B) (hw : k / c.B < c.N) :
    (rateBytes c S)[k]? = (storeWord c S[k / c.B])[k % c.B]? := by
  have hword : k / c.B < c.R_WORDS := Nat.div_lt_of_lt_mul (by rwa [Nat.mul_comm])
  rw [rateBytes, flatMap_get _ c.B (Cfg_B_pos c) _ (fun _ _ => storeWord_length c _) k (by simp; omega)]
  simp

/-- `XorBytes` XORs byte `k` of the string, zero beyond its end, into byte `k` of the rate (R54). -/
theorem rateBytes_xorBytes_getElem? (S : c.Perm) (d : List Byte) (k : Nat) :
    (rateBytes c (xorBytes c S d))[k]? = (rateBytes c S)[k]?.map (· ^^^ d.getD k 0#8) := by
  by_cases hk : k < c.R_WORDS * c.B
  · have hword : k / c.B < c.R_WORDS := Nat.div_lt_of_lt_mul (by rwa [Nat.mul_comm])
    have hw : k / c.B < c.N := hword.trans c.R_WORDS_lt
    have hmod : k % c.B < c.B := Nat.mod_lt _ (Cfg_B_pos c)
    have hxor : (xorBytes c S d)[k / c.B] = S[k / c.B] ^^^ loadWord c (rateBlock c d (k / c.B)) :=
      xorBytes_rate S d ⟨k / c.B, hw⟩ hword
    rw [rateBytes_getElem? _ k hk hw, rateBytes_getElem? _ k hk hw, hxor, storeWord_xor,
      storeWord_loadWord _ (rateBlock_length c d _)]
    simp [xorStrings, rateBlock, hmod, Nat.div_add_mod']
  · simp [hk]

/-- The rate after `XorBytes`: the string XORed into the first bytes, the others as they were (R54). -/
theorem rateBytes_xorBytes (S : c.Perm) (d : List Byte) (hd : d.length ≤ c.R_WORDS * c.B) :
    rateBytes c (xorBytes c S d) =
      xorStrings ((rateBytes c S).take d.length) d ++ (rateBytes c S).drop d.length := by
  have hlen : (xorStrings ((rateBytes c S).take d.length) d).length = d.length := by simp [hd]
  apply List.ext_getElem?
  intro k
  rw [rateBytes_xorBytes_getElem?]
  by_cases hk : k < d.length
  · rw [List.getElem?_append_left (by rwa [hlen])]
    cases hS : (rateBytes c S)[k]? <;> simp [xorStrings, List.getElem?_zipWith, hk, hS]
  · rw [List.getElem?_append_right (by omega), hlen, List.getElem?_drop, Nat.add_sub_cancel' (by omega)]
    simp [hk]

end Sys2Proof.Machine
end

section
/-! PROOFS. What a block does to the state: data reaches the capacity words only through `Apply` (spec/10_state.md R23,
spec/42_duplex_commands.md R141 to R145). -/

namespace Sys2Proof.Machine

variable {c : Cfg}

/-- What a payload block hands to `Apply`: the state with the plaintext XORed in, which a `DECRYPT` block emits (R142, R143). -/
theorem payBlock_state (d : Dir) (blk : List Byte) (S : c.Perm) :
    (payBlock c d blk S).1 =
      applyRounds c c.ROUNDS_BLOCK (xorBytes c S (if d = .dec then (payBlock c d blk S).2 else blk)) := by
  cases d <;> rfl

/-- The padded last block leaves the capacity words (R145). -/
theorem lastBlock_capacity (d : Dir) (data : List Byte) (S : c.Perm) (i : Fin c.N) (hi : c.R_WORDS ≤ i.val) :
    (lastBlock c d data S).1[i] = S[i] := by
  cases d <;> exact xorBytes_capacity S _ i hi

/-- Settles O26: every transform goes through `xorBytes`, which leaves the capacity words. -/
theorem dataReachesCapacityThroughApply : Obligations.DataReachesCapacityThroughApply := by
  intro c d blk S
  refine ⟨rfl, payBlock_state d blk S, fun i hi => ?_, fun hblk => ?_⟩
  · exact ⟨xorBytes_capacity S blk i hi, xorBytes_capacity S _ i hi, lastBlock_capacity d blk S i hi⟩
  · rw [rateBytes_xorBytes S blk (hblk ▸ AAD_WIDTH_le_rate c), hblk]

end Sys2Proof.Machine
end

section
/-! PROOFS. What the byte operations do (spec/20_memory.md R52 to R55) and which transactions are refused (R60). -/

namespace Sys2Proof.Machine

variable {c : Cfg}

-- Words and their bytes (R52)

/-- Byte `j` of `StoreWord` in the byte order `BE`. -/
theorem storeWord_getElem?_be (h : c.BYTE_ORDER = .be) (w : BitVec c.W) {j : Nat} (hj : j < c.B) :
    (storeWord c w)[j]? = some (w.extractLsb' (c.W - 8 - 8 * j) 8) := by
  simp [storeWord, h, hj]

/-- Byte `j` of `StoreWord` in the byte order `LE`. -/
theorem storeWord_getElem?_le (h : c.BYTE_ORDER = .le) (w : BitVec c.W) {j : Nat} (hj : j < c.B) :
    (storeWord c w)[j]? = some (w.extractLsb' (8 * j) 8) := by
  simp [storeWord, h, hj]

/-- The bytes of a word, lowest first. -/
def bytesLowFirst (n : Nat) {W : Nat} (w : BitVec W) : List Byte := (List.range n).map fun j => w.extractLsb' (8 * j) 8

theorem storeWord_eq_bytesLowFirst (h : c.BYTE_ORDER = .le) (w : BitVec c.W) :
    storeWord c w = bytesLowFirst c.B w := by
  simp [storeWord, bytesLowFirst, h]

/-- `BE` is the same bytes, highest first. -/
theorem storeWord_eq_reverse_bytesLowFirst (h : c.BYTE_ORDER = .be) (w : BitVec c.W) :
    storeWord c w = (bytesLowFirst c.B w).reverse := by
  apply List.ext_getElem?
  intro j
  by_cases hj : j < c.B
  · have hW := Cfg_W_eq c
    have hoff : c.W - 8 - 8 * j = 8 * (c.B - 1 - j) := by omega
    rw [storeWord_getElem?_be h w hj, hoff]
    simp [bytesLowFirst, hj]
  · simp [bytesLowFirst, hj]

/-- The bytes that fill a word, put together again, are the word. -/
theorem concatBytes_reverse_bytesLowFirst {W n : Nat} (hW : W = 8 * n) (w : BitVec W) :
    concatBytes W (bytesLowFirst n w).reverse = w := by
  apply BitVec.eq_of_getLsbD_eq
  intro i hi
  have hbyte : i / 8 < n := by omega
  have hbit : i % 8 < 8 := by omega
  rw [concatBytes_reverse_bit W _ i hi]
  simp [bytesLowFirst, hbyte, hbit, Nat.div_add_mod]

/-- `LoadWord` after `StoreWord` gives the word back (R52). -/
theorem loadWord_storeWord (w : BitVec c.W) : loadWord c (storeWord c w) = w := by
  have hjoin := concatBytes_reverse_bytesLowFirst (Cfg_W_eq c) w
  cases h : c.BYTE_ORDER with
  | be => simpa [loadWord, h, storeWord_eq_reverse_bytesLowFirst h] using hjoin
  | le => simpa [loadWord, h, storeWord_eq_bytesLowFirst h] using hjoin

/-- Settles O13: the two inverses, the length, and the byte of each order. -/
theorem loadStoreWord : Obligations.LoadStoreWord := fun c =>
  ⟨loadWord_storeWord, storeWord_loadWord, storeWord_length c,
    fun w _ hj h => storeWord_getElem?_be h w hj, fun w _ hj h => storeWord_getElem?_le h w hj⟩

-- The rate (R53 to R55)

/-- A byte of the rate lies in a word of the state. -/
theorem rateByte_word_lt {k : Nat} (hk : k < c.R_WORDS * c.B) : k / c.B < c.N :=
  (Nat.div_lt_of_lt_mul (by rwa [Nat.mul_comm])).trans c.R_WORDS_lt

/-- Settles O14: words of `B` bytes each, one after the other. -/
theorem rateBytesLayout : Obligations.RateBytesLayout := by
  intro c S
  refine ⟨rateBytes_length c S, fun k hk => ?_⟩
  have hw := rateByte_word_lt hk
  exact ⟨hw, rateBytes_getElem? S k hk hw⟩

/-- Settles O15: `rateBytes_xorBytes_getElem?` within the string and beyond its end, where the byte XORed in is zero. -/
theorem xorBytesOnRate : Obligations.XorBytesOnRate := by
  intro c S d hd
  refine ⟨fun k hk => ?_, fun k hk => ?_, xorBytes_capacity S d⟩
  · have hrate : k < (rateBytes c S).length := by simpa using hk.trans_le hd
    simp [rateBytes_xorBytes_getElem?, List.getElem?_eq_getElem hrate, hk]
  · simp [rateBytes_xorBytes_getElem?, hk]

/-- The rate is a function of the rate words. -/
theorem rateBytes_congr {S T : c.Perm} (h : ∀ i : Fin c.N, i.val < c.R_WORDS → S[i] = T[i]) :
    rateBytes c S = rateBytes c T := by
  have hwords : S.toList.take c.R_WORDS = T.toList.take c.R_WORDS := by
    apply List.ext_getElem (by simp)
    intro i hi _
    have hlt : i < c.R_WORDS ∧ i < c.N := by simpa using hi
    simpa using h ⟨i, hlt.2⟩ hlt.1
  rw [rateBytes, rateBytes, hwords]

/-- A mask that is zero in every rate word leaves the rate (R7). -/
theorem rateBytes_xorState {M : c.Perm} (S : c.Perm) (hM : ∀ i : Fin c.N, i.val < c.R_WORDS → M[i] = 0#c.W) :
    rateBytes c (xorState S M) = rateBytes c S := by
  apply rateBytes_congr
  intro i hi
  have hzero := hM i hi
  simp only [Fin.getElem_fin] at hzero
  simp [hzero]

/-- Settles O16: R7 makes each of the four kinds of mask zero in the rate words. -/
theorem xorStateChangesCapacityOnly : Obligations.XorStateChangesCapacityOnly := by
  intro c S M
  refine ⟨fun i => xorState_getElem S M i i.isLt, ?_⟩
  rintro (⟨k, rfl | rfl⟩ | rfl | rfl)
  · exact rateBytes_xorState S (c.KeyMaskInit_rate k)
  · exact rateBytes_xorState S (c.KeyMaskFinal_rate k)
  · exact rateBytes_xorState S c.DS_AAD_rate
  · exact rateBytes_xorState S c.DS_PAY_rate

-- The declared length (R60)

theorem exec_refused {i : Instr} {s : State} (h : s.din.length ≠ dinLength i) :
    exec i s = .refused .dinLengthMismatch := by
  rw [exec_eq, if_neg h]

/-- Settles O11: with the declared length `exec` answers a next state, so it refuses with another length only. -/
theorem refusesOnlyMalformedTransactions : Obligations.RefusesOnlyMalformedTransactions := by
  refine fun i s => ⟨⟨fun href hlen => ?_, exec_refused⟩, fun hlen => ⟨_, exec_of_din hlen⟩⟩
  rw [exec_of_din hlen] at href
  cases href

end Sys2Proof.Machine
end

section
/-! PROOFS. The encoder and the decoder are inverse to each other, and both follow the opcode map (spec/30_encoding.md R70 to
R75, R77). -/

namespace Sys2Proof

-- The fields of an encoded word, and a word from its fields, per format.

theorem encodeK_fields (op : Byte) {k n : Nat} (hk : k < 256) (hn : n < 256) :
    opField (encodeK op k n) = op.toNat ∧ reservedField (encodeK op k n) = 0 ∧ klenField (encodeK op k n) = k ∧
      nlenField (encodeK op k n) = n := by
  have hop := op.isLt
  rw [opField_eq, reservedField_eq, klenField_eq, nlenField_eq, encodeK_toNat op k n hk hn]
  omega

theorem encodeL_fields (op : Byte) {l : Nat} (hl : l < 65536) :
    opField (encodeL op l) = op.toNat ∧ reservedField (encodeL op l) = 0 ∧ lenField (encodeL op l) = l := by
  have hop := op.isLt
  rw [opField_eq, reservedField_eq, lenField_eq, encodeL_toNat op l hl]
  omega

/-- A format Z word is a format L word with length 0 (R72, R73). -/
theorem encodeZ_eq_encodeL (op : Byte) : encodeZ op = encodeL op 0 := by
  apply BitVec.eq_of_toNat_eq
  rw [encodeZ_toNat, encodeL_toNat op 0 (by decide), Nat.add_zero]

theorem encodeZ_fields (op : Byte) :
    opField (encodeZ op) = op.toNat ∧ reservedField (encodeZ op) = 0 ∧ lenField (encodeZ op) = 0 := by
  rw [encodeZ_eq_encodeL]
  exact encodeL_fields op (by decide)

variable {w : CmdWord} {op : Byte}

theorem encodeK_of_fields (hop : opField w = op.toNat) (hr : reservedField w = 0) :
    encodeK op (klenField w) (nlenField w) = w := by
  obtain ⟨hk, hn, -⟩ := decode_fields_lt w
  apply BitVec.eq_of_toNat_eq
  rw [encodeK_toNat _ _ _ hk hn, ← hop, opField_eq, klenField_eq, nlenField_eq]
  rw [reservedField_eq] at hr
  omega

theorem encodeL_of_fields (hop : opField w = op.toNat) (hr : reservedField w = 0) : encodeL op (lenField w) = w := by
  obtain ⟨-, -, hl⟩ := decode_fields_lt w
  apply BitVec.eq_of_toNat_eq
  rw [encodeL_toNat _ _ hl, ← hop, opField_eq, lenField_eq]
  rw [reservedField_eq] at hr
  omega

theorem encodeZ_of_fields (hop : opField w = op.toNat) (hr : reservedField w = 0) (hl : lenField w = 0) :
    encodeZ op = w := by
  rw [encodeZ_eq_encodeL, ← hl, encodeL_of_fields hop hr]

/-- Settles O1: the decoder reads back the fields of the word of each format. -/
theorem decodeOfEncode : Obligations.DecodeOfEncode := by
  intro i hi
  cases i with
  | construct klen nlen =>
    obtain ⟨hk, hn⟩ : klen < 256 ∧ nlen < 256 := by simpa [Instr.WellFormed, Instr.wellFormed] using hi
    simp [encode, decode, encodeK_fields _ hk hn]
  | ingestAad len => simp [encode, decode, encodeL_fields _ (of_decide_eq_true hi : len < 65536)]
  | encrypt len => simp [encode, decode, encodeL_fields _ (of_decide_eq_true hi : len < 65536)]
  | decrypt len => simp [encode, decode, encodeL_fields _ (of_decide_eq_true hi : len < 65536)]
  | finish => simp [encode, decode, decodeZ, encodeZ_fields]
  | authenticate => simp [encode, decode, decodeZ, encodeZ_fields]
  | verify len => simp [encode, decode, encodeL_fields _ (of_decide_eq_true hi : len < 65536)]
  | release => simp [encode, decode, decodeZ, encodeZ_fields]

/-- Settles O2: an accepted word is put together again from the fields the decoder read, each of which fits. -/
theorem encodeOfDecode : Obligations.EncodeOfDecode := by
  intro w i h
  obtain ⟨hk, hn, hl⟩ := decode_fields_lt w
  obtain ⟨hr, ⟨hop, rfl⟩ | ⟨hop, rfl⟩ | ⟨hop, rfl⟩ | ⟨hop, rfl⟩ | ⟨hop, h0, rfl⟩ | ⟨hop, h0, rfl⟩ | ⟨hop, rfl⟩ |
    ⟨hop, h0, rfl⟩⟩ := decode_ok h
  · exact ⟨by simp [Instr.WellFormed, Instr.wellFormed, hk, hn], encodeK_of_fields hop hr⟩
  · exact ⟨decide_eq_true hl, encodeL_of_fields hop hr⟩
  · exact ⟨decide_eq_true hl, encodeL_of_fields hop hr⟩
  · exact ⟨decide_eq_true hl, encodeL_of_fields hop hr⟩
  · exact ⟨rfl, encodeZ_of_fields hop hr h0⟩
  · exact ⟨rfl, encodeZ_of_fields hop hr h0⟩
  · exact ⟨decide_eq_true hl, encodeL_of_fields hop hr⟩
  · exact ⟨rfl, encodeZ_of_fields hop hr h0⟩

-- The rows of the opcode map

/-- What the mask of a row with operand bits keeps: bits 31:16 in their place. -/
theorem and_upperHalf_toNat (w : CmdWord) : (w &&& 0xFFFF0000#32).toNat = w.toNat / 65536 * 65536 := by
  have hmask : w &&& 0xFFFF0000#32 = w >>> 16 <<< 16 := (BitVec.shiftLeft_ushiftRight (x := w) (n := 16)).symm
  have hw := w.isLt
  rw [hmask, BitVec.toNat_shiftLeft, BitVec.toNat_ushiftRight, Nat.shiftLeft_eq, Nat.shiftRight_eq_div_pow]
  omega

/-- A row of format K or L selects by the opcode and the reserved bits. -/
theorem selects_operandRow {name : String} {pattern : CmdWord} (op : Byte) (hp : pattern = encodeZ op) :
    OpcodeRow.selects ⟨name, 0xFFFF0000#32, pattern⟩ w = true ↔ opField w = op.toNat ∧ reservedField w = 0 := by
  have hw := w.isLt
  have hop := op.isLt
  rw [OpcodeRow.selects, decide_eq_true_iff, ← BitVec.toNat_inj, and_upperHalf_toNat, hp, encodeZ_toNat, opField_eq,
    reservedField_eq]
  omega

/-- A row of format Z selects one word. -/
theorem selects_wholeRow {name : String} {pattern : CmdWord} (op : Byte) (hp : pattern = encodeZ op) :
    OpcodeRow.selects ⟨name, 0xFFFFFFFF#32, pattern⟩ w = true ↔ w = encodeZ op := by
  have hmask : w &&& 0xFFFFFFFF#32 = w := BitVec.and_allOnes
  rw [OpcodeRow.selects, decide_eq_true_iff, hmask, hp]

/-- An accepted word is selected by the row of its instruction. -/
theorem selects_of_decode {i : Instr} (h : decode w = .ok i) :
    ∃ r ∈ opcodeMap, r.selects w = true ∧ r.mnemonic = i.mnemonic := by
  obtain ⟨hr, ⟨hop, rfl⟩ | ⟨hop, rfl⟩ | ⟨hop, rfl⟩ | ⟨hop, rfl⟩ | ⟨hop, h0, rfl⟩ | ⟨hop, h0, rfl⟩ | ⟨hop, rfl⟩ |
    ⟨hop, h0, rfl⟩⟩ := decode_ok h
  · exact ⟨opcodeMap[0], List.getElem_mem _, (selects_operandRow 0x01#8 rfl).2 ⟨hop, hr⟩, rfl⟩
  · exact ⟨opcodeMap[1], List.getElem_mem _, (selects_operandRow 0x02#8 rfl).2 ⟨hop, hr⟩, rfl⟩
  · exact ⟨opcodeMap[2], List.getElem_mem _, (selects_operandRow 0x03#8 rfl).2 ⟨hop, hr⟩, rfl⟩
  · exact ⟨opcodeMap[3], List.getElem_mem _, (selects_operandRow 0x04#8 rfl).2 ⟨hop, hr⟩, rfl⟩
  · exact ⟨opcodeMap[4], List.getElem_mem _, (selects_wholeRow 0x05#8 rfl).2 (encodeZ_of_fields hop hr h0).symm, rfl⟩
  · exact ⟨opcodeMap[5], List.getElem_mem _, (selects_wholeRow 0x06#8 rfl).2 (encodeZ_of_fields hop hr h0).symm, rfl⟩
  · exact ⟨opcodeMap[6], List.getElem_mem _, (selects_operandRow 0x07#8 rfl).2 ⟨hop, hr⟩, rfl⟩
  · exact ⟨opcodeMap[7], List.getElem_mem _, (selects_wholeRow 0x08#8 rfl).2 (encodeZ_of_fields hop hr h0).symm, rfl⟩

/-- A selected word decodes to an instruction with the mnemonic of the row. -/
theorem decode_of_selects {r : OpcodeRow} (hr : r ∈ opcodeMap) (h : r.selects w = true) :
    ∃ i, decode w = .ok i ∧ i.mnemonic = r.mnemonic := by
  simp only [opcodeMap, List.mem_cons, List.not_mem_nil, or_false] at hr
  obtain rfl | rfl | rfl | rfl | rfl | rfl | rfl | rfl := hr
  · obtain ⟨hop, hres⟩ := (selects_operandRow 0x01#8 rfl).1 h
    exact ⟨.construct (klenField w) (nlenField w), by simp [decode, hop, hres], rfl⟩
  · obtain ⟨hop, hres⟩ := (selects_operandRow 0x02#8 rfl).1 h
    exact ⟨.ingestAad (lenField w), by simp [decode, hop, hres], rfl⟩
  · obtain ⟨hop, hres⟩ := (selects_operandRow 0x03#8 rfl).1 h
    exact ⟨.encrypt (lenField w), by simp [decode, hop, hres], rfl⟩
  · obtain ⟨hop, hres⟩ := (selects_operandRow 0x04#8 rfl).1 h
    exact ⟨.decrypt (lenField w), by simp [decode, hop, hres], rfl⟩
  · exact ⟨.finish, by rw [(selects_wholeRow 0x05#8 rfl).1 h]; rfl, rfl⟩
  · exact ⟨.authenticate, by rw [(selects_wholeRow 0x06#8 rfl).1 h]; rfl, rfl⟩
  · obtain ⟨hop, hres⟩ := (selects_operandRow 0x07#8 rfl).1 h
    exact ⟨.verify (lenField w), by simp [decode, hop, hres], rfl⟩
  · exact ⟨.release, by rw [(selects_wholeRow 0x08#8 rfl).1 h]; rfl, rfl⟩

theorem mnemonic_inj_of_mem_opcodeMap :
    ∀ r ∈ opcodeMap, ∀ r' ∈ opcodeMap, r.mnemonic = r'.mnemonic → r = r' := by decide

/-- Settles O3: two rows that select a word have the mnemonic of the one instruction it decodes to, so they are one row. -/
theorem decodeFollowsOpcodeMap : Obligations.DecodeFollowsOpcodeMap := by
  refine fun w => ⟨fun i => selects_of_decode, fun r => decode_of_selects, fun r hr r' hr' h h' => ?_⟩
  obtain ⟨i, hi, hm⟩ := decode_of_selects hr h
  obtain ⟨i', hi', hm'⟩ := decode_of_selects hr' h'
  obtain rfl : i = i' := Except.ok.inj (hi.symm.trans hi')
  exact mnemonic_inj_of_mem_opcodeMap r hr r' hr' (hm.symm.trans hm')

end Sys2Proof
end

section
/-! PROOFS. Where the fields of the packed response word lie (spec/30_encoding.md R76). -/

namespace Sys2Proof.Machine

/-- Settles O5: a field is what is left of the word once the fields below it are passed over, each of which lies wholly
under its lowest bit; `OUTLEN` is the lowest. -/
theorem responseWordFields : Obligations.ResponseWordFields := by
  intro r hr
  unfold Response.word
  refine ⟨?err, ?void, ?phase, ?matched, ?dir, ?zeros, ?outLen⟩
  case err =>
    iterate 6 rw [BitVec.extractLsb'_append_eq_of_le (by decide)]
    exact BitVec.extractLsb'_eq_self
  case void =>
    iterate 5 rw [BitVec.extractLsb'_append_eq_of_le (by decide)]
    exact BitVec.extractLsb'_append_eq_right
  case phase =>
    iterate 4 rw [BitVec.extractLsb'_append_eq_of_le (by decide)]
    exact BitVec.extractLsb'_append_eq_right
  case matched =>
    iterate 3 rw [BitVec.extractLsb'_append_eq_of_le (by decide)]
    exact BitVec.extractLsb'_append_eq_right
  case dir =>
    iterate 2 rw [BitVec.extractLsb'_append_eq_of_le (by decide)]
    exact BitVec.extractLsb'_append_eq_right
  case zeros =>
    rw [BitVec.extractLsb'_append_eq_of_le (by decide)]
    exact BitVec.extractLsb'_append_eq_right
  case outLen => rw [BitVec.extractLsb'_append_eq_right, BitVec.toNat_ofNat, Nat.mod_eq_of_lt hr]

end Sys2Proof.Machine
end

section
/-! PROOFS. The response of a command (spec/30_encoding.md R76) and the comparison of tags behind its `MATCH`
(spec/42_duplex_commands.md R147, R156). -/

namespace Sys2Proof.Machine

-- The comparator

theorem foldl_or_eq_zero_iff (l : List Byte) (d : Byte) :
    l.foldl (fun diff x => diff ||| x) d = 0#8 ↔ d = 0#8 ∧ ∀ x ∈ l, x = 0#8 := by
  induction l generalizing d with
  | nil => simp
  | cons x l ih => simp [ih, BitVec.or_eq_zero_iff, and_assoc]

theorem xorStrings_cons (x y : Byte) (a b : List Byte) :
    xorStrings (x :: a) (y :: b) = (x ^^^ y) :: xorStrings a b := rfl

theorem xorStrings_eq_zero_iff {a b : List Byte} (h : a.length = b.length) :
    (∀ x ∈ xorStrings a b, x = 0#8) ↔ a = b := by
  induction a generalizing b with
  | nil =>
    obtain rfl := List.length_eq_zero_iff.1 h.symm
    simp [xorStrings]
  | cons x a ih =>
    cases b with
    | nil => cases h
    | cons y b =>
      rw [xorStrings_cons, List.forall_mem_cons, ih (Nat.succ.inj h), BitVec.xor_eq_zero_iff, List.cons.injEq]

/-- `CtEq` decides equality of strings of equal length (R147). -/
theorem ctEq_iff {a b : List Byte} (h : a.length = b.length) : ctEq a b = true ↔ a = b := by
  rw [ctEq, beq_iff_eq, foldl_or_eq_zero_iff, xorStrings_eq_zero_iff h, and_iff_right rfl]

-- `MATCH` and the errors

variable {c : Cfg}

/-- A command that is no `VERIFY` does not set `MATCH`. -/
theorem perform_matched_of_ne_verify {i : Instr} (hi : ∀ len, i ≠ .verify len) (din : List Byte) (e : Engine c) :
    (perform c i din e).matched = false := by
  obtain ⟨err, -, -, hq⟩ | ⟨hr, -⟩ := perform_raises_or_runs i din e
  · rw [hq, raise_matched]
  cases i with
  | construct klen nlen =>
    obtain ⟨hk, hn⟩ := hr.constructLengths _ _ rfl
    rw [perform_construct hr.permitted hk hn, succeed_matched]
  | ingestAad len => rw [perform_ingestAad hr.permitted, succeed_matched]
  | encrypt len => rw [perform_encrypt hr.permitted, payload, succeed_matched]
  | decrypt len => rw [perform_decrypt hr.permitted, payload, succeed_matched]
  | finish => rw [perform_finish hr.permitted, succeed_matched]
  | authenticate => rw [perform_authenticate hr.permitted, succeed_matched]
  | verify len => exact absurd rfl (hi len)
  | release => rw [perform_release, succeed_matched]

/-- `MATCH` is 1 exactly for a `VERIFY` that runs and whose candidate is the tag (R76, R156). -/
theorem perform_matched_iff {i : Instr} {din : List Byte} {e : Engine c} (hd : din.length = dinLength i) :
    (perform c i din e).matched = true ↔
      (∃ len, i = .verify len) ∧ (perform c i din e).err = .none ∧ (tagOf c e).toList = din := by
  by_cases hi : ∃ len, i = .verify len
  · obtain ⟨len, rfl⟩ := hi
    obtain ⟨err, hne, -, hq⟩ | ⟨hr, hok⟩ := perform_raises_or_runs (.verify len) din e
    · simp [hq, hne]
    · have hl := hr.tagLength len rfl
      have htag : (tagOf c e).toList.length = din.length := by rw [hd, Vector.length_toList, dinLength, hl]
      simp [perform_verify hr.permitted hl, ctEq_iff htag]
  · simp [hi, perform_matched_of_ne_verify (fun len h => hi ⟨len, h⟩)]

/-- An error comes without output (R76, R196). -/
theorem perform_dout_of_err {i : Instr} {din : List Byte} {e : Engine c} (h : (perform c i din e).err ≠ .none) :
    (perform c i din e).dout = [] := by
  obtain ⟨err, -, -, hq⟩ | ⟨-, hok⟩ := perform_raises_or_runs i din e
  · rw [hq, raise_dout]
  · exact absurd hok h

/-- Settles O41: the response is that of the command's reply. -/
theorem oneResponsePerCommand : Obligations.OneResponsePerCommand := by
  intro i s t h
  obtain ⟨hd, rfl⟩ := exec_next h
  refine ⟨_, answered_complete s _, perform_matched_iff hd, fun herr => ?_⟩
  rw [Response.outLen, Reply.response_dout, perform_dout_of_err herr, List.length_nil]

end Sys2Proof.Machine
end

section
/-! PROOFS. `Feed` hands over the first blocks of its stream and keeps the rest: the number of callbacks, the cursor and the
blocks themselves (spec/40_accumulator.md R101, R102, R104, R105). -/

namespace Sys2Proof.Machine

variable {c : Cfg} {width : Nat} {cb : Callback c}

-- Counting and running the blocks of a stream

/-- What follows the first `k` blocks does not matter to them. -/
theorem runBlocks_append {k : Nat} {M : List Byte} (h : k * width ≤ M.length) (L : List Byte) (p : c.Perm × List Byte) :
    runBlocks cb width k (M ++ L) p = runBlocks cb width k M p :=
  runBlocks_congr cb width k _ _ p (List.take_append_of_le_length h)

/-- A callback that emits one byte per call is called once per block. -/
theorem runBlocks_countCalls_length (cb : Callback c) (width k : Nat) (M : List Byte) (p : c.Perm × List Byte) :
    (runBlocks (countCalls cb) width k M p).2.length = p.2.length + k := by
  induction k with
  | zero => rfl
  | succ k ih =>
    rw [runBlocks_succ, List.length_append, ih]
    rfl

-- A feeding that has taken in the stream `M`

/-- Of the stream `M`, the first `k` blocks went to the callback, in order and from the state and output `p`; the rest is what
the buffer holds. -/
structure Feeding.HandedOver (cb : Callback c) (p : c.Perm × List Byte) (M : List Byte) (k : Nat)
    (f : Feeding c width) : Prop where
  pos_le : f.acc.pos ≤ width
  blocks : (f.S, f.out) = runBlocks cb width k M p
  rest : f.acc.content = M.drop (k * width)

namespace Feeding.HandedOver
variable {p : c.Perm × List Byte} {M : List Byte} {k : Nat} {f : Feeding c width}

theorem start (hp : f.acc.pos ≤ width) : f.HandedOver cb (f.S, f.out) f.acc.content 0 where
  pos_le := hp
  blocks := rfl
  rest := by simp

theorem pos_eq (h : f.HandedOver cb p M k) : f.acc.pos = M.length - k * width := by
  rw [← Acc.content_length f.acc h.pos_le, h.rest, List.length_drop]

/-- A waiting block is the next block of the stream. -/
theorem handOver_full (h : f.HandedOver cb p M k) (hf : f.acc.pos = width) (hw : 0 < width) :
    (handOver cb f).HandedOver cb p M (k + 1) := by
  have hlen : M.length = (k + 1) * width := by
    have := h.pos_eq
    rw [Nat.succ_mul]
    omega
  have hblock : f.acc.buf.toList = (M.drop (k * width)).take width := by
    rw [← h.rest, Acc.content_full _ hf, List.take_of_length_le (by simp)]
  rw [Machine.handOver_full cb f hf]
  refine ⟨Nat.zero_le _, ?blocks, ?rest⟩
  case blocks => rw [runBlocks_succ, ← h.blocks, ← hblock]
  case rest => simp [Acc.content, ← hlen]

theorem push (h : f.HandedOver cb p M k) (hp : f.acc.pos < width) (hk : k * width ≤ M.length) (b : Byte) :
    Feeding.HandedOver cb p (M ++ [b]) k { f with acc := f.acc.push b } where
  pos_le := hp
  blocks := by rw [runBlocks_append hk, ← h.blocks]
  rest := by rw [Acc.push_content _ _ hp, h.rest, List.drop_append_of_le_length hk]

/-- One byte more: a waiting block is handed over exactly when the count of R104 grows. -/
theorem feedByte (h : f.HandedOver cb p M (callsFor width M.length)) (hw : 0 < width) (b : Byte) :
    (feedByte cb f b).HandedOver cb p (M ++ [b]) (callsFor width (M ++ [b]).length) := by
  have hk := (callsFor_bounds width (M.length + 1) hw (Nat.le_add_left ..)).1
  have hhand : (handOver cb f).HandedOver cb p M (callsFor width (M.length + 1)) := by
    have hpos := h.pos_eq
    by_cases hf : f.acc.pos = width
    · rw [callsFor_succ width M.length hw (by omega), if_pos (by omega)]
      exact h.handOver_full hf hw
    · have hcalls : callsFor width (M.length + 1) = callsFor width M.length := by
        by_cases hM : M.length = 0
        · rw [hM, callsFor_small width 0 (Nat.zero_le _) hw, callsFor_small width (0 + 1) hw hw]
        · rw [callsFor_succ width M.length hw (by omega), if_neg (by omega)]
      rwa [hcalls, handOver_notFull cb f hf]
  rw [List.length_append, List.length_singleton]
  exact hhand.push (handOver_pos_lt cb f hw h.pos_le) (Nat.le_of_lt_succ hk) b

end Feeding.HandedOver

/-- A feed leaves its stream, the buffered content and then the data, handed over up to the block that waits (R104, R105). -/
theorem feed_handedOver (cb : Callback c) (data : List Byte) (f : Feeding c width) (hw : 0 < width)
    (hp : f.acc.pos ≤ width) :
    (feed cb data f).HandedOver cb (f.S, f.out) (f.acc.content ++ data) (callsFor width (f.acc.pos + data.length)) := by
  rw [← Acc.content_length f.acc hp, ← List.length_append]
  induction data using List.reverseRecOn with
  | nil =>
    have hzero : callsFor width f.acc.content.length = 0 := by
      rw [Acc.content_length f.acc hp, callsFor_small width _ hp hw]
    rw [List.append_nil, hzero]
    exact .start hp
  | append_singleton data b ih =>
    rw [feed_snoc, ← List.append_assoc]
    exact ih.feedByte hw b

theorem feed_pos (cb : Callback c) (data : List Byte) (f : Feeding c width) (hw : 0 < width) (hp : f.acc.pos ≤ width) :
    (feed cb data f).acc.pos = f.acc.pos + data.length - callsFor width (f.acc.pos + data.length) * width := by
  rw [(feed_handedOver cb data f hw hp).pos_eq, List.length_append, Acc.content_length f.acc hp]

theorem feed_countCalls_out_length (cb : Callback c) (data : List Byte) (f : Feeding c width) (hw : 0 < width)
    (hp : f.acc.pos ≤ width) :
    (feed (countCalls cb) data f).out.length = f.out.length + callsFor width (f.acc.pos + data.length) := by
  have hblocks := (feed_handedOver (countCalls cb) data f hw hp).blocks
  exact (congrArg (·.2.length) hblocks).trans (runBlocks_countCalls_length cb width _ _ _)

/-- What stays of a stream that is not empty, from the remainder of its length (R104). -/
theorem sub_callsFor_mul (width total : Nat) (hw : 0 < width) (h : 1 ≤ total) :
    total - callsFor width total * width = (total - 1) % width + 1 := by
  obtain ⟨hlt, hle⟩ := callsFor_bounds width total hw h
  have hmod : (total - 1) % width = total - 1 - callsFor width total * width := by
    rw [← Nat.sub_mul_mod (k := callsFor width total) (by rw [Nat.mul_comm]; omega), Nat.mul_comm,
      Nat.mod_eq_of_lt (by omega)]
  omega

theorem feed_append (cb : Callback c) (a b : List Byte) (f : Feeding c width) :
    feed cb (a ++ b) f = feed cb b (feed cb a f) :=
  List.foldl_append

/-- Settles O22: the cursor is the length of what stays of the stream, and the callbacks are its blocks handed over. -/
theorem feedPositionAndCallCount : Obligations.FeedPositionAndCallCount := by
  intro c width cb data f hw hp
  have hpos := feed_pos (countCalls cb) data f hw hp
  refine ⟨?nothing, ?some, ?fresh⟩
  case nothing =>
    rintro rfl
    exact ⟨rfl, rfl⟩
  case some =>
    intro hd
    have hlen := List.length_pos_iff.2 hd
    obtain ⟨hlt, hle⟩ := callsFor_bounds width (f.acc.pos + data.length) hw (by omega)
    exact ⟨feed_countCalls_out_length cb data f hw hp, hpos, by omega, by omega⟩
  case fresh =>
    intro h0
    split
    next hd =>
      subst hd
      exact h0
    next hd => rw [hpos, h0, Nat.zero_add, sub_callsFor_mul width _ hw (List.length_pos_iff.2 hd)]

/-- Settles O23: a feed leaves its stream handed over up to the block that waits. -/
theorem feedHandsOverStreamBlocks : Obligations.FeedHandsOverStreamBlocks := by
  refine fun c width cb a b f => ⟨feed_append cb a b f, fun hw hp => ?_⟩
  have h := feed_handedOver cb a f hw hp
  exact ⟨h.blocks, h.rest⟩

/-- Settles O21: a feed is a fold over its bytes. -/
theorem feedOfNothing : Obligations.FeedOfNothing := fun _ _ _ _ => rfl

end Sys2Proof.Machine
end

section
/-! PROOFS. The permutation core: the constant, the two layers from their structure, and the chain of rounds
(spec/41_permutation.md R122 to R127, spec/00_scope.md R8). -/

namespace Sys2Proof.Machine

variable {c : Cfg}

-- The rounds of `Apply`

/-- The state before round `i` of `Apply(S, rounds)`, the final state for `i = rounds` (R126). -/
def stateBeforeRound (c : Cfg) (rounds : Fin (c.ROUNDS_MAX + 1)) (S : c.Perm) (i : Nat) : c.Perm :=
  ((List.finRange rounds.val).take i).foldl (fun S i => permRound c S (c.RoundConst rounds i)) S

theorem stateBeforeRound_succ (rounds : Fin (c.ROUNDS_MAX + 1)) (S : c.Perm) {i : Nat} (h : i < rounds.val) :
    stateBeforeRound c rounds S (i + 1) =
      permRound c (stateBeforeRound c rounds S i) (c.RoundConst rounds ⟨i, h⟩) := by
  have htake : (List.finRange rounds.val).take (i + 1) = (List.finRange rounds.val).take i ++ [⟨i, h⟩] := by
    simp [List.take_succ_eq_append_getElem, h]
  rw [stateBeforeRound, htake, List.foldl_append]
  rfl

theorem stateBeforeRound_rounds (rounds : Fin (c.ROUNDS_MAX + 1)) (S : c.Perm) :
    stateBeforeRound c rounds S rounds.val = applyRounds c rounds S := by
  rw [stateBeforeRound, List.take_of_length_le (by simp), applyRounds]

/-- Settles O18: the trace is the states before each round. -/
theorem applyIteratesRounds : Obligations.ApplyIteratesRounds := fun _ rounds S =>
  ⟨stateBeforeRound _ rounds S, rfl, fun _ h => stateBeforeRound_succ rounds S h, (stateBeforeRound_rounds rounds S).symm⟩

-- Words and their bit slices

/-- Bit `j` of every word. -/
def bitSlice {W N : Nat} (S : Words W N) (j : Nat) : Vector Bool N := S.map (·.getLsbD j)

/-- A state is determined by its bit slices. -/
theorem eq_of_bitSlice_eq {W N : Nat} {S T : Words W N} (h : ∀ j < W, bitSlice S j = bitSlice T j) : S = T := by
  ext i hi j hj
  have hbit : (bitSlice S j)[i] = (bitSlice T j)[i] := by rw [h j hj]
  simpa [bitSlice, BitVec.getLsbD_eq_getElem hj] using hbit

@[simp] theorem rotateAll_getElem {W N : Nat} (S : Words W N) (n i : Nat) (h : i < N) :
    (rotateAll S n)[i] = S[i].rotateRight n := by
  simp [rotateAll]

/-- A common rotation moves the bit slices round. -/
theorem bitSlice_rotateAll {W N : Nat} (S : Words W N) (n : Nat) {j : Nat} (hj : j < W) :
    bitSlice (rotateAll S n) j = bitSlice S ((j + n) % W) := by
  ext i hi
  simp [bitSlice, rotateRight_bit W _ n j (by omega) hj]

/-- Settles O19: `Sub` is one function `f` of each bit slice (R8 (a)), and a common rotation only moves the slices round. -/
theorem subCommutesWithRotation : Obligations.SubCommutesWithRotation := by
  intro c S n
  obtain ⟨f, hf⟩ := c.Sub_bitSliced
  refine eq_of_bitSlice_eq fun j hj => ?_
  have hk : (j + n) % c.W < c.W := Nat.mod_lt _ c.W_pos
  calc bitSlice (c.Sub (rotateAll S n)) j
    _ = f (bitSlice (rotateAll S n) j) := hf _ j hj
    _ = f (bitSlice S ((j + n) % c.W)) := by rw [bitSlice_rotateAll S n hj]
    _ = bitSlice (c.Sub S) ((j + n) % c.W) := (hf S _ hk).symm
    _ = bitSlice (rotateAll (c.Sub S) n) j := (bitSlice_rotateAll _ n hj).symm

-- One word of the linear layer

theorem rotateRight_xor {W : Nat} (v w : BitVec W) (n : Nat) :
    (v ^^^ w).rotateRight n = v.rotateRight n ^^^ w.rotateRight n := by
  refine BitVec.eq_of_getLsbD_eq fun j hj => ?_
  have hW : 0 < W := by omega
  simp only [BitVec.getLsbD_xor, rotateRight_bit W _ n j hW hj]

theorem rotateRight_comm {W : Nat} (w : BitVec W) (m n : Nat) :
    (w.rotateRight m).rotateRight n = (w.rotateRight n).rotateRight m := by
  refine BitVec.eq_of_getLsbD_eq fun j hj => ?_
  have hW : 0 < W := by omega
  have hmod (k : Nat) : k % W < W := Nat.mod_lt k hW
  simp only [rotateRight_bit W _ _ _ hW hj, rotateRight_bit W _ _ _ hW (hmod _), Nat.mod_add_mod, Nat.add_right_comm]

/-- A word XORed with the rotations of it by the amounts `rots`: what R8 (b) says `Lin` does to each word. -/
def diffuse {W : Nat} (rots : List Nat) (w : BitVec W) : BitVec W := rots.foldl (fun v n => v ^^^ w.rotateRight n) w

/-- R8 (b) through `diffuse`. -/
theorem exists_lin_getElem (c : Cfg) :
    ∃ rot : Fin c.N → List Nat, ∀ (S : c.Perm) (i : Nat) (hi : i < c.N), (c.Lin S)[i] = diffuse (rot ⟨i, hi⟩) S[i] :=
  c.Lin_rotations.imp fun _ hrot S i hi => hrot S ⟨i, hi⟩

theorem diffuse_xor {W : Nat} (rots : List Nat) (v w : BitVec W) :
    diffuse rots (v ^^^ w) = diffuse rots v ^^^ diffuse rots w := by
  refine List.foldl_hom₂ rots (· ^^^ ·) _ _ _ v w fun a b n => ?_
  rw [rotateRight_xor]
  ac_rfl

theorem diffuse_rotateRight {W : Nat} (rots : List Nat) (w : BitVec W) (n : Nat) :
    diffuse rots (w.rotateRight n) = (diffuse rots w).rotateRight n := by
  refine List.foldl_hom (fun v : BitVec W => v.rotateRight n) fun v m => ?_
  rw [rotateRight_xor, rotateRight_comm]

-- The linear layer

theorem lin_xorState (S T : c.Perm) : c.Lin (xorState S T) = xorState (c.Lin S) (c.Lin T) := by
  obtain ⟨rot, hrot⟩ := exists_lin_getElem c
  refine Vector.ext fun i hi => ?_
  simp only [hrot, xorState_getElem, diffuse_xor]

theorem xorState_self {W N : Nat} (S : Words W N) : xorState S S = vec fun _ => 0#W := by
  refine Vector.ext fun i hi => ?_
  simp

/-- A linear map keeps zero: zero is `S ^ S`. -/
theorem lin_zero (c : Cfg) : c.Lin (vec fun _ => 0#c.W) = vec fun _ => 0#c.W := by
  rw [← xorState_self (vec fun _ => 0#c.W), lin_xorState, xorState_self, xorState_self]

theorem lin_rotateAll (S : c.Perm) (n : Nat) : c.Lin (rotateAll S n) = rotateAll (c.Lin S) n := by
  obtain ⟨rot, hrot⟩ := exists_lin_getElem c
  refine Vector.ext fun i hi => ?_
  simp only [hrot, rotateAll_getElem, diffuse_rotateRight]

/-- Settles O20: each law holds of `diffuse`, so of every word of `Lin`. -/
theorem linIsLinear : Obligations.LinIsLinear := fun c S T =>
  ⟨lin_xorState S T, lin_zero c, lin_rotateAll S⟩

-- The round constant

/-- Settles O17: `addConst` sets the one word `RC_WORD`. -/
theorem addConstChangesOneWord : Obligations.AddConstChangesOneWord := by
  refine fun c S k => ⟨Vector.getElem_set_self c.RC_WORD.isLt, fun i hi => ?_⟩
  exact Vector.getElem_set_ne c.RC_WORD.isLt i.isLt fun h => hi (Fin.ext h.symm)

end Sys2Proof.Machine
end

section
/-! PROOFS. The padding and the payload block transforms in both directions (spec/42_duplex_commands.md R140 to
R143, R145), and the comparator (R147). -/

namespace Sys2Proof.Machine

variable {c : Cfg}

-- The padding

theorem pad_length {d : List Byte} {width : Nat} (h : d.length < width) : (pad c d width).length = width := by
  simp only [pad, List.length_append, List.length_singleton, zeros_length]
  omega

theorem pad_take (d : List Byte) (width : Nat) : (pad c d width).take d.length = d := by simp [pad]

/-- Settles O24: index by index in the data, at the marker, and in the zeros. -/
theorem padLayout : Obligations.PadLayout := by
  intro c d width hd
  refine ⟨pad_length hd, fun k hk => ?data, ?marker, fun k hk hw => ?zeros⟩
  case data => rw [← List.getElem?_take_of_lt hk, pad_take]
  case marker => simp [pad]
  case zeros =>
    rw [pad, List.getElem?_append_right (by simpa using hk), zeros, List.getElem?_replicate_of_lt]
    simp only [List.length_append, List.length_singleton]
    omega

-- What a block emits

theorem xorStrings_take (a b : List Byte) (n : Nat) : (xorStrings a b).take n = xorStrings (a.take n) (b.take n) :=
  List.take_zipWith

/-- The first rate bytes after `XorBytes`: those of the string XORed in (R54). -/
theorem rateBytes_xorBytes_take (S : c.Perm) {d : List Byte} {n : Nat} (hn : n ≤ d.length)
    (hd : d.length ≤ c.R_WORDS * c.B) :
    (rateBytes c (xorBytes c S d)).take n = xorStrings ((rateBytes c S).take n) (d.take n) := by
  have hlen : n ≤ (xorStrings ((rateBytes c S).take d.length) d).length := by simpa [hd] using hn
  rw [rateBytes_xorBytes S d hd, List.take_append_of_le_length hlen, xorStrings_take, List.take_take, Nat.min_eq_left hn]

/-- Both directions emit the XOR of the rate and the block (R142, R143). -/
theorem payBlock_out (d : Dir) {blk : List Byte} (S : c.Perm) (h : blk.length = c.PAY_WIDTH) :
    (payBlock c d blk S).2 = xorStrings ((rateBytes c S).take c.PAY_WIDTH) blk := by
  have henc : (encBlock c blk S).2 = xorStrings ((rateBytes c S).take c.PAY_WIDTH) blk := by
    rw [encBlock, rateBytes_xorBytes_take S h.ge (h ▸ PAY_WIDTH_le_rate c), List.take_of_length_le h.le]
  cases d with
  | none => exact henc
  | enc => exact henc
  | dec => rfl

/-- So does the padded last block, with as many rate bytes as it has data (R145). -/
theorem lastBlock_out (d : Dir) {data : List Byte} (S : c.Perm) (h : data.length < c.PAY_WIDTH) :
    (lastBlock c d data S).2 = xorStrings ((rateBytes c S).take data.length) data := by
  have henc : (lastBlock c .enc data S).2 = xorStrings ((rateBytes c S).take data.length) data := by
    have hpad : (pad c data c.PAY_WIDTH).length = c.PAY_WIDTH := pad_length h
    rw [lastBlock, rateBytes_xorBytes_take S (h.le.trans_eq hpad.symm) (hpad.trans_le (PAY_WIDTH_le_rate c)),
      pad_take]
  cases d with
  | none => exact henc
  | enc => exact henc
  | dec => rfl

theorem rateBytes_take_length (S : c.Perm) {n : Nat} (h : n ≤ c.PAY_WIDTH) : ((rateBytes c S).take n).length = n := by
  rw [List.length_take, rateBytes_length, Nat.min_eq_left (h.trans (PAY_WIDTH_le_rate c))]

theorem xorStrings_rate_length (S : c.Perm) {d : List Byte} (h : d.length ≤ c.PAY_WIDTH) :
    (xorStrings ((rateBytes c S).take d.length) d).length = d.length := by
  rw [xorStrings_length, rateBytes_take_length S h, Nat.min_self]

theorem xorStrings_rate_cancel (S : c.Perm) {d : List Byte} (h : d.length ≤ c.PAY_WIDTH) :
    xorStrings ((rateBytes c S).take d.length) (xorStrings ((rateBytes c S).take d.length) d) = d :=
  xorStrings_cancel _ _ (rateBytes_take_length S h)

theorem payBlock_out_length (d : Dir) {blk : List Byte} (S : c.Perm) (h : blk.length = c.PAY_WIDTH) :
    (payBlock c d blk S).2.length = c.PAY_WIDTH := by
  rw [payBlock_out d S h, ← h, xorStrings_rate_length S h.le]

theorem lastBlock_out_length (d : Dir) {data : List Byte} (S : c.Perm) (h : data.length < c.PAY_WIDTH) :
    (lastBlock c d data S).2.length = data.length := by
  rw [lastBlock_out d S h, xorStrings_rate_length S h.le]

/-- Settles O25: `rateBytes_xorBytes` of the block when encrypting, and when decrypting of the emitted plaintext, which cancels
the rate under it. -/
theorem payloadBlocks : Obligations.PayloadBlocks := by
  intro c blk S hblk
  have henc : (encBlock c blk S).2 = xorStrings ((rateBytes c S).take c.PAY_WIDTH) blk := payBlock_out .enc S hblk
  have hdec : (decBlock c blk S).2.length = c.PAY_WIDTH := payBlock_out_length .dec S hblk
  refine ⟨xorBytes c S blk, xorBytes c S (decBlock c blk S).2, rfl, henc, ?rateEnc, rfl, rfl, ?rateDec,
    fun i hi => ?capacity⟩
  case rateEnc => rw [rateBytes_xorBytes S blk (hblk ▸ PAY_WIDTH_le_rate c), hblk, henc]
  case rateDec =>
    rw [rateBytes_xorBytes S _ (hdec ▸ PAY_WIDTH_le_rate c), hdec, ← hblk, decBlock, ← hblk,
      xorStrings_rate_cancel S hblk.le]
  case capacity => exact ⟨xorBytes_capacity S _ i hi, xorBytes_capacity S _ i hi⟩

-- Decrypting what was encrypted (R158)

theorem decBlock_encBlock {pt : List Byte} (S : c.Perm) (h : pt.length = c.PAY_WIDTH) :
    decBlock c (encBlock c pt S).2 S = ((encBlock c pt S).1, pt) := by
  have hout : (encBlock c pt S).2 = _ := payBlock_out .enc S h
  have hcancel := xorStrings_rate_cancel S h.le
  rw [h] at hcancel
  rw [hout, decBlock, hcancel]
  rfl

theorem lastBlock_dec_enc {pt : List Byte} (S : c.Perm) (h : pt.length < c.PAY_WIDTH) :
    lastBlock c .dec (lastBlock c .enc pt S).2 S = ((lastBlock c .enc pt S).1, pt) := by
  have hlen := lastBlock_out_length .enc S h
  rw [lastBlock, hlen, lastBlock_out .enc S h, xorStrings_rate_cancel S h.le]
  rfl

/-- Settles O31: the plaintext is the rate XORed twice into itself. -/
theorem blockRoundTrip : Obligations.BlockRoundTrip := fun _ _ S => ⟨decBlock_encBlock S, lastBlock_dec_enc S⟩

/-- Settles O30: `ctEq_iff`, where the OR of the differences is zero exactly when each of them is. -/
theorem ctEqDecidesEquality : Obligations.CtEqDecidesEquality := fun _ _ h => ctEq_iff h

end Sys2Proof.Machine
end

section
/-! PROOFS. The two flushes, and a payload stream encrypted and decrypted (spec/42_duplex_commands.md R144, R145, R158). -/

namespace Sys2Proof.Machine

variable {c : Cfg}

theorem Acc.content_of_pos_zero {width : Nat} {a : Acc width} (h : a.pos = 0) : a.content = [] := by
  simp [Acc.content, h]

-- The AAD flush

/-- Settles O27: a hand-over leaves no content, and without one the padded block is the content or skipped. -/
theorem flushAadEffect : Obligations.FlushAadEffect := by
  intro c e
  have hw := c.AAD_WIDTH_pos
  by_cases hfull : e.aad.pos = c.AAD_WIDTH
  · have hpos : e.aad.pos ≠ 0 := by omega
    rw [flushAad, handOver_full (absorbBlock c) { acc := e.aad, S := e.S, out := [] } hfull, if_pos hfull]
    simp [hpos, absorbBlock, Acc.content, Acc.empty]
  · rw [flushAad, handOver_notFull (absorbBlock c) { acc := e.aad, S := e.S, out := [] } hfull, if_neg hfull]
    simp [Acc.content, Acc.empty]

-- The payload flush

/-- The blocks of a payload flush on the waiting bytes `data`: a full block as an ordinary one and then an empty padded one,
otherwise the padded last block alone (R145). -/
def flushBlocks (c : Cfg) (d : Dir) (data : List Byte) (S : c.Perm) : c.Perm × List Byte :=
  if data.length = c.PAY_WIDTH then ((lastBlock c d [] (payBlock c d data S).1).1, (payBlock c d data S).2)
  else lastBlock c d data S

theorem flushBlocks_full (d : Dir) {data : List Byte} (S : c.Perm) (h : data.length = c.PAY_WIDTH) :
    flushBlocks c d data S = ((lastBlock c d [] (payBlock c d data S).1).1, (payBlock c d data S).2) := if_pos h

theorem flushBlocks_partial (d : Dir) {data : List Byte} (S : c.Perm) (h : data.length < c.PAY_WIDTH) :
    flushBlocks c d data S = lastBlock c d data S := if_neg h.ne

/-- What a payload flush makes of the state its blocks leave: the rounds if `PAY_LAST_PERMUTES`, then `DS_PAY` (R145). -/
def closePay (c : Cfg) (S : c.Perm) : c.Perm :=
  xorState (if c.PAY_LAST_PERMUTES then applyRounds c c.ROUNDS_BLOCK S else S) c.DS_PAY

theorem payBlock_of_ne_dec {d : Dir} (hd : d ≠ .dec) : payBlock c d = encBlock c := by
  cases d with
  | none => rfl
  | enc => rfl
  | dec => exact absurd rfl hd

theorem lastBlock_of_ne_dec {d : Dir} (hd : d ≠ .dec) : lastBlock c d = lastBlock c .enc := by
  cases d with
  | none => rfl
  | enc => rfl
  | dec => exact absurd rfl hd

/-- An empty last block is the same in every direction. -/
theorem lastBlock_nil (d : Dir) (S : c.Perm) : lastBlock c d [] S = (xorBytes c S (pad c [] c.PAY_WIDTH), []) := by
  cases d <;> rfl

/-- The payload flush runs `flushBlocks` on the content of the accumulator (R145). -/
theorem flushPay_eq {e : Engine c} (hp : e.pay.pos ≤ c.PAY_WIDTH) :
    flushPay c e =
      ({ e with S := closePay c (flushBlocks c e.dir e.pay.content e.S).1, pay := Acc.empty c.PAY_WIDTH },
        (flushBlocks c e.dir e.pay.content e.S).2) := by
  have hlen := e.pay.content_length hp
  by_cases hfull : e.pay.pos = c.PAY_WIDTH
  · rw [flushBlocks_full _ _ (hlen.trans hfull), flushPay,
      handOver_full (payBlock c e.dir) { acc := e.pay, S := e.S, out := [] } hfull, e.pay.content_full hfull]
    simp only [Acc.content, List.take_zero, lastBlock_nil, List.nil_append, List.append_nil]
    rfl
  · rw [flushBlocks_partial _ _ (by omega), flushPay,
      handOver_notFull (payBlock c e.dir) { acc := e.pay, S := e.S, out := [] } hfull]
    rfl

/-- With nothing waiting the flush absorbs an empty padded block, whatever the direction, and emits nothing. -/
theorem flushPay_of_pos_zero {e : Engine c} (hp : e.pay.pos = 0) :
    flushPay c e =
      ({ e with S := closePay c (xorBytes c e.S (pad c [] c.PAY_WIDTH)), pay := Acc.empty c.PAY_WIDTH }, []) := by
  rw [flushPay_eq (hp.trans_le (Nat.zero_le _)), Acc.content_of_pos_zero hp,
    flushBlocks_partial e.dir e.S (data := []) c.PAY_WIDTH_pos, lastBlock_nil]

theorem flushBlocks_out_length (d : Dir) {data : List Byte} (S : c.Perm) (h : data.length ≤ c.PAY_WIDTH) :
    (flushBlocks c d data S).2.length = data.length := by
  by_cases hfull : data.length = c.PAY_WIDTH
  · rw [flushBlocks_full _ _ hfull, payBlock_out_length _ _ hfull, hfull]
  · have hlt : data.length < c.PAY_WIDTH := by omega
    rw [flushBlocks_partial _ _ hlt, lastBlock_out_length _ _ hlt]

/-- The flush emits as many bytes as are waiting (R154). -/
theorem flushPay_out_length {e : Engine c} (hp : e.pay.pos ≤ c.PAY_WIDTH) : (flushPay c e).2.length = e.pay.pos := by
  have hlen := e.pay.content_length hp
  rw [flushPay_eq hp, flushBlocks_out_length _ _ (hlen.trans_le hp), hlen]

/-- Settles O28: the flush is `lastBlock` of the content, read off by direction. -/
theorem flushPayOfRemainder : Obligations.FlushPayOfRemainder := by
  intro c e hp
  have hlen : e.pay.content.length = e.pay.pos := e.pay.content_length hp.le
  rw [flushPay_eq hp.le, flushBlocks_partial _ _ (hlen.trans_lt hp)]
  by_cases hd : e.dir = .dec
  · refine ⟨xorStrings ((rateBytes c e.S).take e.pay.content.length) e.pay.content, _, fun _ => ⟨?_, ?_⟩,
      fun h => absurd hd h, rfl, ?_⟩
    · rw [hlen, Acc.content]
    · rw [hd, lastBlock]
    · rw [hd]
      rfl
  · refine ⟨e.pay.content, _, fun h => absurd h hd, fun _ => ⟨rfl, ?_⟩, rfl, ?_⟩
    · rw [lastBlock_of_ne_dec hd, lastBlock, hlen]
    · rw [lastBlock_of_ne_dec hd]
      rfl

/-- A deferred full block is an ordinary one, then the rest is the flush of an empty accumulator (R103, R145). -/
theorem flushPay_of_full {e : Engine c} (hp : e.pay.pos = c.PAY_WIDTH) :
    flushPay c e =
      ((flushPay c { e with S := (payBlock c e.dir e.pay.buf.toList e.S).1, pay := { e.pay with pos := 0 } }).1,
        (payBlock c e.dir e.pay.buf.toList e.S).2) := by
  have hlen : e.pay.content.length = c.PAY_WIDTH := (e.pay.content_length hp.le).trans hp
  rw [flushPay_eq hp.le, flushBlocks_full _ _ hlen, lastBlock_nil, e.pay.content_full hp, flushPay_of_pos_zero rfl]

/-- Settles O29: `flushPay_of_full` with the callback of the direction. -/
theorem flushPayOfFullBlock : Obligations.FlushPayOfFullBlock := by
  intro c e hp
  have hflush := flushPay_of_full hp
  refine ⟨fun hd => ?_, fun hd => ?_⟩
  · have hcb : payBlock c e.dir = decBlock c := by rw [hd, payBlock]
    rwa [hcb] at hflush
  · rwa [payBlock_of_ne_dec hd] at hflush

-- A stream encrypted and decrypted (R158)

/-- Decrypting what a flush emitted while encrypting gives its bytes back and leaves the same state. -/
theorem flushBlocks_dec_enc {pt : List Byte} (S : c.Perm) (h : pt.length ≤ c.PAY_WIDTH) :
    flushBlocks c .dec (flushBlocks c .enc pt S).2 S = ((flushBlocks c .enc pt S).1, pt) := by
  by_cases hfull : pt.length = c.PAY_WIDTH
  · have hlen : (encBlock c pt S).2.length = c.PAY_WIDTH := payBlock_out_length .enc S hfull
    simp only [flushBlocks_full _ _ hfull, payBlock, flushBlocks_full _ _ hlen, decBlock_encBlock S hfull, lastBlock_nil]
  · have hlt : pt.length < c.PAY_WIDTH := by omega
    rw [flushBlocks_partial .enc S hlt, flushBlocks_partial _ _ ((lastBlock_out_length .enc S hlt).trans_lt hlt),
      lastBlock_dec_enc S hlt]

/-- A callback that emits a block per block emits `k` of them from `k` blocks. -/
theorem runBlocks_out_length {cb : Callback c} {width : Nat}
    (hcb : ∀ blk S, blk.length = width → (cb blk S).2.length = width) {k : Nat} {M : List Byte}
    (hk : k * width ≤ M.length) (p : c.Perm × List Byte) :
    (runBlocks cb width k M p).2.length = p.2.length + k * width := by
  induction k with
  | zero => rw [runBlocks_zero, Nat.zero_mul, Nat.add_zero]
  | succ k ih =>
    rw [Nat.succ_mul] at hk
    rw [runBlocks_succ, List.length_append, ih (by omega), hcb _ _ (by simp; omega), Nat.succ_mul, Nat.add_assoc]

theorem runBlocks_encBlock_out_length {k : Nat} {pt : List Byte} (hk : k * c.PAY_WIDTH ≤ pt.length) (S : c.Perm) :
    (runBlocks (encBlock c) c.PAY_WIDTH k pt (S, [])).2.length = k * c.PAY_WIDTH :=
  (runBlocks_out_length (fun _ T h => payBlock_out_length .enc T h) hk (S, [])).trans (Nat.zero_add _)

/-- Decrypting the blocks that `k` blocks were encrypted to gives them back and leaves the same state. -/
theorem runBlocks_dec_enc {k : Nat} {pt : List Byte} (hk : k * c.PAY_WIDTH ≤ pt.length) (S : c.Perm) :
    runBlocks (decBlock c) c.PAY_WIDTH k (runBlocks (encBlock c) c.PAY_WIDTH k pt (S, [])).2 (S, []) =
      ((runBlocks (encBlock c) c.PAY_WIDTH k pt (S, [])).1, pt.take (k * c.PAY_WIDTH)) := by
  induction k with
  | zero => simp [runBlocks_zero]
  | succ k ih =>
    rw [Nat.succ_mul] at hk
    have hk' : k * c.PAY_WIDTH ≤ pt.length := by omega
    have hct : (runBlocks (encBlock c) c.PAY_WIDTH k pt (S, [])).2.length = k * c.PAY_WIDTH := 
      runBlocks_encBlock_out_length hk' S
    have hblk : ((pt.drop (k * c.PAY_WIDTH)).take c.PAY_WIDTH).length = c.PAY_WIDTH := by simp; omega
    have hout : ∀ T, (encBlock c ((pt.drop (k * c.PAY_WIDTH)).take c.PAY_WIDTH) T).2.length = c.PAY_WIDTH :=
      fun T => payBlock_out_length .enc T hblk
    rw [runBlocks_succ, runBlocks_succ, runBlocks_append hct.ge, ih hk', List.drop_left' hct,
      List.take_of_length_le (hout _).le, decBlock_encBlock _ hblk, Nat.succ_mul, List.take_add]

/-- The blocks handed over are within the stream, and what waits after them is at most a block (R104). -/
theorem callsFor_mul_bounds {width : Nat} (hw : 0 < width) (total : Nat) :
    callsFor width total * width ≤ total ∧ total ≤ callsFor width total * width + width := by
  by_cases h : 1 ≤ total
  · exact (callsFor_bounds width total hw h).imp_left Nat.le_of_lt
  · rw [callsFor_small width total (by omega) hw]
    omega

/-- A whole payload stream from the state `S`: the blocks that `Feed` hands over, then those of the flush on the bytes that
wait (R105, R145). -/
def streamBlocks (c : Cfg) (d : Dir) (data : List Byte) (S : c.Perm) : c.Perm × List Byte :=
  let k := callsFor c.PAY_WIDTH data.length
  let p := runBlocks (payBlock c d) c.PAY_WIDTH k data (S, [])
  let q := flushBlocks c d (data.drop (k * c.PAY_WIDTH)) p.1
  (q.1, p.2 ++ q.2)

/-- Feeding a stream to an accumulator that holds nothing, and flushing it, runs `streamBlocks`. -/
theorem feed_flushPay {e : Engine c} {d : Dir} (hd : e.dir = d) (h0 : e.pay.pos = 0) (data : List Byte) :
    let f := feed (payBlock c d) data { acc := e.pay, S := e.S, out := [] }
    (flushPay c { e with S := f.S, pay := f.acc }).1.S = closePay c (streamBlocks c d data e.S).1 ∧
      f.out ++ (flushPay c { e with S := f.S, pay := f.acc }).2 = (streamBlocks c d data e.S).2 := by
  intro f
  subst hd
  have hf := feed_handedOver (payBlock c e.dir) data { acc := e.pay, S := e.S, out := [] } c.PAY_WIDTH_pos
    (h0.trans_le (Nat.zero_le _))
  simp only [Acc.content_of_pos_zero h0, h0, List.nil_append, Nat.zero_add] at hf
  obtain ⟨hpos, hblocks, hrest⟩ := hf
  rw [flushPay_eq hpos, streamBlocks, ← hblocks, ← hrest]
  exact ⟨rfl, rfl⟩

/-- Decrypting a whole stream that was encrypted gives it back and leaves the same state (R158). -/
theorem streamBlocks_dec_enc (pt : List Byte) (S : c.Perm) :
    streamBlocks c .dec (streamBlocks c .enc pt S).2 S = ((streamBlocks c .enc pt S).1, pt) := by
  obtain ⟨hk, hw⟩ := callsFor_mul_bounds c.PAY_WIDTH_pos pt.length
  simp only [streamBlocks, payBlock]
  generalize hkdef : callsFor c.PAY_WIDTH pt.length = k at hk hw ⊢
  have hp := runBlocks_encBlock_out_length hk S
  have hdec := runBlocks_dec_enc hk S
  generalize runBlocks (encBlock c) c.PAY_WIDTH k pt (S, []) = p at hp hdec ⊢
  have hrest : (pt.drop (k * c.PAY_WIDTH)).length ≤ c.PAY_WIDTH := by
    rw [List.length_drop]
    omega
  have hq := flushBlocks_out_length .enc p.1 hrest
  have hlen : (p.2 ++ (flushBlocks c .enc (pt.drop (k * c.PAY_WIDTH)) p.1).2).length = pt.length := by
    rw [List.length_append, hp, hq, List.length_drop]
    omega
  rw [hlen, hkdef, runBlocks_append hp.ge, hdec, List.drop_left' hp, flushBlocks_dec_enc _ hrest,
    List.take_append_drop]

theorem tagOf_congr {e f : Engine c} (hS : e.S = f.S) (hK : e.K = f.K) : tagOf c e = tagOf c f := by
  rw [tagOf, tagOf, tagState, tagState, hS, hK]

/-- Settles O32: both engines run `streamBlocks` from the same state, and the tag is a function of `S` and `K`. -/
theorem streamRoundTrip : Obligations.StreamRoundTrip := by
  intro c e d pt hS hK he hd hep hdp e1 e2 d1 d2
  obtain ⟨heS, heout⟩ := feed_flushPay he hep pt
  obtain ⟨hdS, hdout⟩ := feed_flushPay hd hdp (e1.out ++ e2.2)
  have hround : streamBlocks c .dec (e1.out ++ e2.2) d.S = ((streamBlocks c .enc pt e.S).1, pt) := by
    rw [show e1.out ++ e2.2 = (streamBlocks c .enc pt e.S).2 from heout, ← hS, streamBlocks_dec_enc]
  rw [hround] at hdS hdout
  have hstate : d2.1.S = e2.1.S := hdS.trans heS.symm
  exact ⟨hstate, hdout, tagOf_congr hstate hK.symm⟩

end Sys2Proof.Machine
end

section
/-! PROOFS. The commands one by one: what each answers where it is legal, and the error it raises elsewhere
(spec/42_duplex_commands.md R148 to R157, R160, spec/60_exceptions.md R192 to R196). The statements of single commands are
settled under `Commands`, since the names of the model's own functions are those of the statements. -/

namespace Sys2Proof.Machine

variable {c : Cfg} {e : Engine c} {din : List Byte}

/-- Settles O6: `step` by its equation, for an event that is a command whose word decodes. -/
theorem stepRunsDecodedCommand : Obligations.StepRunsDecodedCommand := by
  intro s t rest i hin hdec
  simp only [step, nextEvent, hin, hdec]
  rfl

-- The prologue and the errors

/-- With `VOID = 0` the table of R148 decides, for every command but `RELEASE` (R149). -/
theorem permitted_iff {i : Instr} (hi : i ≠ .release) :
    permitted i e = true ↔ e.void = false ∧ phaseLegal i e.phase e.dir = true := by
  rw [permitted_eq e hi, Bool.and_eq_true, Bool.not_eq_true']

theorem permitted_of_legal {i : Instr} (hv : e.void = false) (hl : phaseLegal i e.phase e.dir = true) :
    permitted i e = true := by
  by_cases hi : i = .release
  · rw [hi, permitted_release]
  · exact (permitted_iff hi).2 ⟨hv, hl⟩

/-- A command that is not legal by the table of R148 is a `ProtocolViolation` (R192). -/
theorem perform_of_not_legal {i : Instr} (hi : i ≠ .release) (hl : ¬ phaseLegal i e.phase e.dir = true) :
    perform c i din e = raise .protocolViolation e :=
  perform_no (by rw [permitted_eq e hi, eq_false_of_ne_true hl, Bool.and_false])

theorem perform_construct_badKey {klen nlen : Nat} (hp : permitted (.construct klen nlen) e = true)
    (hk : klen ≠ c.KEY_LEN) : perform c (.construct klen nlen) din e = raise .invalidKeyLength e :=
  (guarded_ok hp).trans (if_pos hk)

theorem perform_construct_badNonce {klen nlen : Nat} (hp : permitted (.construct klen nlen) e = true)
    (hk : klen = c.KEY_LEN) (hn : nlen ≠ c.NONCE_LEN) :
    perform c (.construct klen nlen) din e = raise .invalidNonceLength e :=
  (guarded_ok hp).trans ((if_neg (not_not_intro hk)).trans (if_pos hn))

theorem perform_verify_badTag {len : Nat} (hp : permitted (.verify len) e = true) (hl : len ≠ c.TAG_LEN) :
    perform c (.verify len) din e = raise .invalidTagLength e :=
  (guarded_ok hp).trans (if_pos hl)

theorem afterError_of_not_idle (h : e.phase ≠ .idle) : e.afterError = { e with void := true } := by
  rw [Engine.afterError, if_neg h]

/-- Error entry outputs nothing, so a command that outputs nothing when it runs never does. -/
theorem perform_dout_nil {i : Instr} (h : Runs i e → (perform c i din e).dout = []) : (perform c i din e).dout = [] := by
  obtain ⟨err, -, -, hq⟩ | ⟨hr, -⟩ := perform_raises_or_runs i din e
  · rw [hq, raise_dout]
  · exact h hr

-- `CONSTRUCT` and `RELEASE`

theorem keyOperand_toList (h : c.KEY_LEN ≤ din.length) : (keyOperand c din).toList = din.take c.KEY_LEN :=
  takeBytes_toList din 0 c.KEY_LEN (by rwa [Nat.zero_add])

theorem nonceOperand_toList {klen : Nat} (h : din.length = klen + c.NONCE_LEN) :
    (nonceOperand c klen din).toList = din.drop klen := by
  rw [nonceOperand, takeBytes_toList _ _ _ h.ge, List.take_of_length_le (by simp [h])]

theorem perform_construct_dout (klen nlen : Nat) : (perform c (.construct klen nlen) din e).dout = [] :=
  perform_dout_nil fun hr => by
    obtain ⟨hk, hn⟩ := hr.constructLengths _ _ rfl
    rw [perform_construct hr.permitted hk hn, succeed_dout]

/-- Settles O33: in `IDLE` the command is permitted, and error entry changes nothing there. -/
theorem Commands.constructCommand : Obligations.ConstructCommand := by
  intro klen nlen s hd hv
  have hp (h : s.engine.phase = .idle) : permitted (.construct klen nlen) s.engine = true :=
    permitted_of_legal hv (phaseLegal_construct.2 h)
  refine ⟨_, _, exec_of_din hd, answered_complete _ _, perform_construct_dout klen nlen,
    perform_matched_of_ne_verify (by simp) _ _, fun hi hk hn => ?ok, fun hi hk => ?badKey, fun hi hk hn => ?badNonce,
    fun hi => ?violation⟩
  case ok =>
    rw [perform_construct (hp hi) hk hn]
    subst hk hn
    exact ⟨rfl, _, _, keyOperand_toList (by omega), nonceOperand_toList hd, rfl⟩
  case badKey =>
    rw [perform_construct_badKey (hp hi) hk]
    exact ⟨rfl, (raise_engine .invalidKeyLength _).trans (afterError_idle _ hi)⟩
  case badNonce =>
    rw [perform_construct_badNonce (hp hi) hk hn]
    exact ⟨rfl, (raise_engine .invalidNonceLength _).trans (afterError_idle _ hi)⟩
  case violation =>
    rw [perform_of_not_legal (by simp) (mt phaseLegal_construct.1 hi)]
    exact ⟨rfl, raise_engine .protocolViolation _⟩

/-- Settles O40: `RELEASE` is always permitted, and what it leaves is the reset engine. -/
theorem Commands.releaseCommand : Obligations.ReleaseCommand := by
  intro s hd
  refine ⟨_, _, exec_of_din (by rw [hd]; rfl), answered_complete _ _, ?_⟩
  rw [perform_release]
  exact ⟨rfl, rfl, rfl, rfl⟩

-- `INGEST_AAD`

theorem perform_ingestAad_dout (len : Nat) : (perform c (.ingestAad len) din e).dout = [] :=
  perform_dout_nil fun hr => by rw [perform_ingestAad hr.permitted, succeed_dout]

/-- Settles O34: where it is permitted the command is `feedAad`. -/
theorem Commands.ingestAadCommand : Obligations.IngestAadCommand := by
  intro len s hd hv
  refine ⟨_, _, exec_of_din hd, answered_complete _ _, perform_ingestAad_dout len,
    perform_matched_of_ne_verify (by simp) _ _, fun hp => ?ok, fun hp => ?violation⟩
  case ok =>
    rw [perform_ingestAad (permitted_of_legal hv (phaseLegal_ingestAad.2 hp))]
    refine ⟨rfl, rfl, fun hlen => ?_⟩
    rw [List.length_eq_zero_iff.1 (hd.trans hlen)]
    rfl
  case violation =>
    rw [perform_of_not_legal (by simp) (mt phaseLegal_ingestAad.1 hp)]
    exact ⟨rfl, raise_engine .protocolViolation _⟩

-- `ENCRYPT` and `DECRYPT`

/-- `i` is the payload command of the direction `d`, with `len` bytes: the two differ in the direction only (R152, R153). -/
structure PayloadCommand (i : Instr) (d : Dir) (len : Nat) : Prop where
  ne_release : i ≠ .release
  ne_verify : ∀ n, i ≠ .verify n
  dinLength : dinLength i = len
  legal : ∀ p q, phaseLegal i p q = true ↔ p = .absorbingAad ∨ (p = .absorbingPayload ∧ q = d)
  perform : ∀ (c : Cfg) (e : Engine c) (din : List Byte), permitted i e = true → perform c i din e = payload c d din e

theorem encrypt_payloadCommand (len : Nat) : PayloadCommand (.encrypt len) .enc len where
  ne_release := by simp
  ne_verify := by simp
  dinLength := rfl
  legal := fun _ _ => phaseLegal_encrypt
  perform := fun _ _ _ => perform_encrypt

theorem decrypt_payloadCommand (len : Nat) : PayloadCommand (.decrypt len) .dec len where
  ne_release := by simp
  ne_verify := by simp
  dinLength := rfl
  legal := fun _ _ => phaseLegal_decrypt
  perform := fun _ _ _ => perform_decrypt

/-- A callback that emits a block per block: what a feed emits (R104). -/
theorem feed_out_length {width : Nat} {cb : Callback c} (hcb : ∀ blk S, blk.length = width → (cb blk S).2.length = width)
    (data : List Byte) (f : Feeding c width) (hw : 0 < width) (hp : f.acc.pos ≤ width) :
    (feed cb data f).out.length = f.out.length + callsFor width (f.acc.pos + data.length) * width := by
  have hblocks := congrArg (·.2) (feed_handedOver cb data f hw hp).blocks
  have hk : callsFor width (f.acc.pos + data.length) * width ≤ (f.acc.content ++ data).length := by
    rw [List.length_append, f.acc.content_length hp]
    exact (callsFor_mul_bounds hw _).1
  exact (congrArg List.length hblocks).trans (runBlocks_out_length hcb hk _)

/-- How many bytes a payload command outputs (R160). -/
theorem payload_dout_length (d : Dir) (din : List Byte) (hp : e.pay.pos ≤ c.PAY_WIDTH) :
    (payload c d din e).dout.length =
      if din.length = 0 then 0 else callsFor c.PAY_WIDTH (e.pay.pos + din.length) * c.PAY_WIDTH := by
  have hfeed := feed_out_length (fun _ S h => payBlock_out_length d S h) din
    { acc := (enterPayload c d e).pay, S := (enterPayload c d e).S, out := [] } c.PAY_WIDTH_pos (by rwa [enterPayload_pay])
  simp only [enterPayload_pay, List.length_nil, Nat.zero_add] at hfeed
  rw [payload, succeed_dout, feedPay, enterPayload_pay, hfeed]
  split
  next h => rw [h, Nat.add_zero, callsFor_small _ _ hp c.PAY_WIDTH_pos, Nat.zero_mul]
  next => rfl

namespace PayloadCommand
variable {i : Instr} {d : Dir} {len : Nat} {s : State}

/-- What R152 and R153 say of a payload command, for both directions. -/
theorem answer (hi : PayloadCommand i d len) (hd : s.din.length = len) (hv : s.engine.void = false) :
    ∃ (t : State) (r : Response), exec i s = .next t ∧ Answered s t r ∧ r.matched = false ∧
      (s.engine.phase = .absorbingAad →
        r.err = .none ∧
        let e := flushAad Config.cfg s.engine
        let f := feed (payBlock Config.cfg d) s.din { acc := e.pay, S := e.S, out := [] }
        r.dout = f.out ∧ t.engine = { e with S := f.S, pay := f.acc, phase := .absorbingPayload, dir := d }) ∧
      (s.engine.phase = .absorbingPayload → s.engine.dir = d →
        r.err = .none ∧
        let f := feed (payBlock Config.cfg d) s.din { acc := s.engine.pay, S := s.engine.S, out := [] }
        r.dout = f.out ∧ t.engine = { s.engine with S := f.S, pay := f.acc } ∧ (len = 0 → t.engine = s.engine)) ∧
      (r.err = .none → s.engine.pay.pos ≤ Config.cfg.PAY_WIDTH →
        r.outLen =
          if len = 0 then 0 else callsFor Config.cfg.PAY_WIDTH (s.engine.pay.pos + len) * Config.cfg.PAY_WIDTH) ∧
      (s.engine.phase ≠ .absorbingAad → ¬ (s.engine.phase = .absorbingPayload ∧ s.engine.dir = d) →
        r.err = .protocolViolation ∧ r.dout = [] ∧ t.engine = s.engine.afterError) := by
  have hlegal := hi.legal s.engine.phase s.engine.dir
  refine ⟨_, _, exec_of_din (hd.trans hi.dinLength.symm), answered_complete _ _,
    perform_matched_of_ne_verify hi.ne_verify _ _, fun hp => ?first, fun hp hdir => ?later, fun hok hp => ?outLen,
    fun hp hnot => ?violation⟩
  case first =>
    rw [hi.perform _ _ _ (permitted_of_legal hv (hlegal.2 (.inl hp))), payload, enterPayload_aadPhase _ _ hp]
    exact ⟨rfl, rfl, rfl⟩
  case later =>
    rw [hi.perform _ _ _ (permitted_of_legal hv (hlegal.2 (.inr ⟨hp, hdir⟩))), payload_of_later _ _ (by simp [hp])]
    refine ⟨rfl, rfl, rfl, fun hlen => ?_⟩
    rw [List.length_eq_zero_iff.1 (hd.trans hlen)]
    rfl
  case outLen =>
    rw [Response.outLen, Reply.response_dout, hi.perform _ _ _ (runs_of_success hok).permitted,
      payload_dout_length d s.din hp, hd]
  case violation =>
    rw [perform_of_not_legal hi.ne_release (mt hlegal.1 (not_or_intro hp hnot))]
    exact ⟨rfl, rfl, raise_engine .protocolViolation _⟩

end PayloadCommand

/-- Settles O35: `ENCRYPT` is the payload command of `ENC`. -/
theorem Commands.encryptCommand : Obligations.EncryptCommand := fun len _ => (encrypt_payloadCommand len).answer

/-- Settles O36: `DECRYPT` is the payload command of `DEC`. -/
theorem Commands.decryptCommand : Obligations.DecryptCommand := fun len _ => (decrypt_payloadCommand len).answer

-- `FINISH`

theorem finish_dout_length (hr : Runs .finish e) (hp : e.pay.pos ≤ c.PAY_WIDTH) :
    (perform c .finish din e).dout.length = e.pay.pos := by
  rw [perform_finish_closeAad hr.permitted, succeed_dout, flushPay_out_length (by rwa [closeAad_pay]), closeAad_pay]

/-- Settles O37: `closeAad` by phase, then the payload flush. -/
theorem Commands.finishCommand : Obligations.FinishCommand := by
  intro s hd hv
  refine ⟨_, _, exec_of_din (by rw [hd]; rfl), answered_complete _ _, perform_matched_of_ne_verify (by simp) _ _,
    fun hp => ?aad, fun hp => ?payload, fun hok hpos => ?outLen, fun ha hp => ?violation⟩
  case aad =>
    rw [perform_finish_closeAad (permitted_of_legal hv (phaseLegal_finish.2 (.inl hp))), closeAad_aadPhase hp]
    exact ⟨rfl, rfl, rfl, rfl⟩
  case payload =>
    rw [perform_finish_closeAad (permitted_of_legal hv (phaseLegal_finish.2 (.inr hp))), closeAad_other (by simp [hp])]
    exact ⟨rfl, rfl, rfl⟩
  case outLen => exact finish_dout_length (runs_of_success hok) hpos
  case violation =>
    rw [perform_of_not_legal (by simp) (mt phaseLegal_finish.1 (not_or_intro ha hp))]
    exact ⟨rfl, rfl, raise_engine .protocolViolation _⟩

-- `AUTHENTICATE` and `VERIFY`

/-- Settles O38: where it is permitted the command emits `tagOf` and leaves `tagged`. -/
theorem Commands.authenticateCommand : Obligations.AuthenticateCommand := by
  intro s hd hv
  refine ⟨_, _, exec_of_din (by rw [hd]; rfl), answered_complete _ _, perform_matched_of_ne_verify (by simp) _ _,
    fun hp => ?ok, fun hp => ?violation⟩
  case ok =>
    rw [perform_authenticate (permitted_of_legal hv (phaseLegal_authenticate.2 hp))]
    exact ⟨rfl, Vector.length_toList, rfl, rfl⟩
  case violation =>
    rw [perform_of_not_legal (by simp) (mt phaseLegal_authenticate.1 hp)]
    exact ⟨rfl, rfl, raise_engine .protocolViolation _⟩

theorem perform_verify_dout (len : Nat) : (perform c (.verify len) din e).dout = [] :=
  perform_dout_nil fun hr => by rw [perform_verify hr.permitted (hr.tagLength _ rfl), succeed_dout]

/-- Settles O39: with the length of the tag `MATCH` is the comparator's answer, another length is an error that sets `VOID`. -/
theorem Commands.verifyCommand : Obligations.VerifyCommand := by
  intro len s hd hv
  have hp (h : s.engine.phase = .finalized) : permitted (.verify len) s.engine = true :=
    permitted_of_legal hv (phaseLegal_verify.2 h)
  refine ⟨_, _, exec_of_din hd, answered_complete _ _, perform_verify_dout len, fun hf hl => ?ok, fun hf hl => ?badTag,
    fun hf => ?violation⟩
  case ok =>
    rw [perform_verify (hp hf) hl]
    exact ⟨rfl, hv, ctEq_iff (by rw [Vector.length_toList, hd, hl]), rfl⟩
  case badTag =>
    rw [perform_verify_badTag (hp hf) hl]
    exact ⟨rfl, rfl, (raise_engine .invalidTagLength _).trans (afterError_of_not_idle (by simp [hf]))⟩
  case violation =>
    rw [perform_of_not_legal (by simp) (mt phaseLegal_verify.1 hf)]
    exact ⟨rfl, rfl, raise_engine .protocolViolation _⟩

-- Phases and output lengths over all commands

/-- Settles O49: an error leaves `PHASE`, and each command that runs goes from a phase the table admits to its next. -/
theorem phaseTransitions : Obligations.PhaseTransitions := by
  intro i s t r h ha
  obtain ⟨-, rfl, rfl⟩ := exec_answered h ha
  simp only [State.complete_engine, Reply.response_err]
  obtain ⟨err, hne, -, hq⟩ | ⟨hr, hok⟩ := perform_raises_or_runs i s.din s.engine
  · rw [hq]
    exact ⟨fun _ => rfl, fun herr => absurd herr hne⟩
  refine ⟨fun herr => absurd hok herr, fun _ => ?_⟩
  cases i with
  | construct klen nlen =>
    obtain ⟨hk, hn⟩ := hr.constructLengths _ _ rfl
    rw [perform_construct hr.permitted hk hn]
    exact ⟨hr.construct_phase, rfl⟩
  | ingestAad len =>
    rw [perform_ingestAad hr.permitted]
    exact ⟨hr.ingestAad_phase, hr.ingestAad_phase⟩
  | encrypt len =>
    have hp := hr.encrypt_phase.imp_right And.left
    rw [perform_encrypt hr.permitted]
    exact ⟨hp, payload_phase _ _ hp⟩
  | decrypt len =>
    have hp := hr.decrypt_phase.imp_right And.left
    rw [perform_decrypt hr.permitted]
    exact ⟨hp, payload_phase _ _ hp⟩
  | finish =>
    rw [perform_finish hr.permitted]
    exact ⟨hr.finish_phase, rfl⟩
  | authenticate =>
    rw [perform_authenticate hr.permitted]
    exact ⟨hr.authenticate_phase, rfl⟩
  | verify len =>
    rw [perform_verify hr.permitted (hr.tagLength _ rfl)]
    exact ⟨hr.verify_phase, rfl⟩
  | release => rfl

/-- Settles O54: the output of each command that runs. -/
theorem outputLengths : Obligations.OutputLengths := by
  intro i s t r h ha hok hp
  obtain ⟨hd, rfl, rfl⟩ := exec_answered h ha
  have hr : Runs i s.engine := runs_of_success hok
  rw [Response.outLen, Reply.response_dout]
  cases i with
  | construct klen nlen => simp only [perform_construct_dout, List.length_nil]
  | ingestAad len => simp only [perform_ingestAad_dout, List.length_nil]
  | encrypt len =>
    rw [perform_encrypt hr.permitted, payload_dout_length _ _ hp, hd]
    rfl
  | decrypt len =>
    rw [perform_decrypt hr.permitted, payload_dout_length _ _ hp, hd]
    rfl
  | finish => exact finish_dout_length hr hp
  | authenticate =>
    rw [perform_authenticate hr.permitted]
    exact Vector.length_toList
  | verify len => simp only [perform_verify_dout, List.length_nil]
  | release => rfl

end Sys2Proof.Machine
end

section
/-! PROOFS. Cutting a stream into chunks, and a payload of no bytes (spec/42_duplex_commands.md R154, R159). -/

namespace Sys2Proof.Machine

variable {c : Cfg} (e : Engine c) (d : Dir) (a b : List Byte)

-- Feeding a stream in two pieces

theorem feedAad_append : feedAad c (a ++ b) e = feedAad c b (feedAad c a e) := by
  simp only [feedAad, feed_append]
  rw [feed_out_shift]

theorem feedPay_append :
    feedPay c d (a ++ b) e =
      ((feedPay c d b (feedPay c d a e).1).1, (feedPay c d a e).2 ++ (feedPay c d b (feedPay c d a e).1).2) := by
  simp only [feedPay, feed_append]
  rw [feed_out_shift]

theorem enterPayload_phase_ne : (enterPayload c d e).phase ≠ .absorbingAad := by
  by_cases hp : e.phase = .absorbingAad
  · simp [enterPayload_aadPhase e d hp]
  · rwa [enterPayload_other e d hp]

/-- Only the first of the two pieces can enter the payload phase. -/
theorem payload_append :
    payload c d (a ++ b) e =
      succeed (payload c d b (payload c d a e).engine).engine
        ((payload c d a e).dout ++ (payload c d b (payload c d a e).engine).dout) := by
  have hlater : (payload c d a e).engine.phase ≠ .absorbingAad := enterPayload_phase_ne e d
  rw [payload_of_later d b hlater, payload, feedPay_append]
  rfl

-- A stream command on two pieces

/-- The stream command `mk` on `a` and then on `b` leaves the same engine, outputs the same bytes in all and ends with the
same error code as on `a ++ b` (R159). -/
structure JoinsChunks (mk : Nat → Instr) (a b : List Byte) (e : Engine c) : Prop where
  engine : (perform c (mk b.length) b (perform c (mk a.length) a e).engine).engine =
    (perform c (mk (a ++ b).length) (a ++ b) e).engine
  dout : (perform c (mk a.length) a e).dout ++ (perform c (mk b.length) b (perform c (mk a.length) a e).engine).dout =
    (perform c (mk (a ++ b).length) (a ++ b) e).dout
  err : (perform c (mk b.length) b (perform c (mk a.length) a e).engine).err =
    (perform c (mk (a ++ b).length) (a ++ b) e).err

variable {e}

theorem afterError_afterError : e.afterError.afterError = e.afterError := by
  by_cases h : e.phase = .idle
  · rw [afterError_idle e h, afterError_idle e h]
  · rw [afterError_void e.afterError (by rw [afterError_of_not_idle h])]

/-- Error entry makes no command legal that was not (R196). -/
theorem permitted_raise {i : Instr} (err : ErrCode) (h : permitted i e = false) :
    permitted i (raise err e).engine = false := by
  have hi : i ≠ .release := by
    rintro rfl
    rw [permitted_release] at h
    cases h
  refine eq_false_of_ne_true fun hraised => ?_
  obtain ⟨hv, hl⟩ := (permitted_iff hi).1 hraised
  rw [raise_void, Bool.or_eq_false_iff] at hv
  rw [(permitted_iff hi).2 ⟨hv.1, hl⟩] at h
  cases h

/-- Where the command is not permitted each piece raises the error, and the second error entry changes nothing more. -/
theorem joinsChunks_of_not_permitted {mk : Nat → Instr} (h : ∀ n, permitted (mk n) e = false) : JoinsChunks mk a b e := by
  have hq (n : Nat) (din : List Byte) : perform c (mk n) din e = raise .protocolViolation e := perform_no (h n)
  have hq' : perform c (mk b.length) b (raise .protocolViolation e).engine =
      raise .protocolViolation (raise .protocolViolation e).engine := perform_no (permitted_raise _ (h _))
  constructor
  case engine => rw [hq, hq, hq', raise_engine, raise_engine, afterError_afterError]
  case dout => rw [hq, hq, hq', raise_dout, raise_dout, List.append_nil]
  case err => rw [hq, hq, hq', raise_err, raise_err]

/-- `INGEST_AAD` leaves what makes it legal, and `feedAad` joins its pieces. -/
theorem joinsChunks_ingestAad : JoinsChunks .ingestAad a b e := by
  have hiff (n : Nat) (f : Engine c) : permitted (.ingestAad n) f = true ↔ f.void = false ∧ f.phase = .absorbingAad := by
    rw [permitted_iff (by simp), phaseLegal_ingestAad]
  by_cases hp : e.void = false ∧ e.phase = .absorbingAad
  · have hq (n : Nat) (din : List Byte) : perform c (.ingestAad n) din e = succeed (feedAad c din e) [] :=
      perform_ingestAad ((hiff n e).2 hp)
    have hq' : perform c (.ingestAad b.length) b (feedAad c a e) = succeed (feedAad c b (feedAad c a e)) [] :=
      perform_ingestAad ((hiff _ _).2 hp)
    constructor
    case engine => rw [hq, hq, succeed_engine, hq', feedAad_append]
    case dout => rw [hq, hq, succeed_engine, hq', succeed_dout, succeed_dout, succeed_dout, List.append_nil]
    case err => rw [hq, hq, succeed_engine, hq', succeed_err, succeed_err]
  · exact joinsChunks_of_not_permitted a b fun n => eq_false_of_ne_true (mt (hiff n e).1 hp)

theorem PayloadCommand.permitted_iff {i : Instr} {len : Nat} (hi : PayloadCommand i d len) :
    permitted i e = true ↔
      e.void = false ∧ (e.phase = .absorbingAad ∨ (e.phase = .absorbingPayload ∧ e.dir = d)) := by
  rw [Machine.permitted_iff hi.ne_release, hi.legal]

/-- A payload command stays legal in its direction, and `payload` joins its pieces. -/
theorem joinsChunks_payload {mk : Nat → Instr} {d : Dir} (hmk : ∀ n, PayloadCommand (mk n) d n) : JoinsChunks mk a b e := by
  by_cases hp : e.void = false ∧ (e.phase = .absorbingAad ∨ (e.phase = .absorbingPayload ∧ e.dir = d))
  · have hq (n : Nat) (din : List Byte) : perform c (mk n) din e = payload c d din e :=
      (hmk n).perform _ _ _ ((hmk n).permitted_iff.2 hp)
    have hnext : permitted (mk b.length) (payload c d a e).engine = true := by
      obtain ⟨hv, hphase⟩ := hp
      refine (hmk _).permitted_iff.2
        ⟨by rw [payload_void, hv], .inr ⟨payload_phase d a (hphase.imp_right And.left), ?_⟩⟩
      rw [payload_dir]
      split
      next => rfl
      next hne => exact (hphase.resolve_left hne).2
    have hq' : perform c (mk b.length) b (payload c d a e).engine = payload c d b (payload c d a e).engine :=
      (hmk _).perform _ _ _ hnext
    constructor
    case engine => rw [hq, hq, hq', payload_append, succeed_engine]
    case dout => rw [hq, hq, hq', payload_append, succeed_dout]
    case err => rw [hq, hq, hq', payload_append, succeed_err, payload, succeed_err]
  · exact joinsChunks_of_not_permitted a b fun n => eq_false_of_ne_true (mt (hmk n).permitted_iff.1 hp)

/-- Settles O55: the three commands answer `a`, `b` and `a ++ b`, and their replies join. -/
theorem chunkingInvariance : Obligations.ChunkingInvariance := by
  intro mk hmk s a b
  obtain ⟨hd, hjoin⟩ : (∀ n, dinLength (mk n) = n) ∧ JoinsChunks mk a b s.engine := by
    simp only [List.mem_cons, List.not_mem_nil, or_false] at hmk
    obtain rfl | rfl | rfl := hmk
    · exact ⟨fun _ => rfl, joinsChunks_ingestAad a b⟩
    · exact ⟨fun _ => rfl, joinsChunks_payload a b encrypt_payloadCommand⟩
    · exact ⟨fun _ => rfl, joinsChunks_payload a b decrypt_payloadCommand⟩
  exact ⟨_, _, _, _, _, _, exec_of_din (hd _).symm, answered_complete _ _, exec_of_din (hd _).symm, answered_complete _ _,
    exec_of_din (hd _).symm, answered_complete _ _, hjoin.engine, hjoin.dout, hjoin.err⟩

-- A payload of no bytes

/-- A first payload command of no bytes flushes the AAD, changes phase and latches the direction; nothing else (R152). -/
theorem payload_nil (h : e.phase = .absorbingAad) :
    payload c d [] e = succeed { flushAad c e with phase := .absorbingPayload, dir := d } [] := by
  rw [payload, enterPayload_aadPhase e d h]
  rfl

/-- `FINISH` with no payload waiting outputs nothing and absorbs an empty padded block (R154). -/
theorem perform_finish_of_pos_zero {din : List Byte} (hp : permitted .finish e = true) (h0 : e.pay.pos = 0) :
    perform c .finish din e =
      succeed
        { closeAad c e with
          S := closePay c (xorBytes c (closeAad c e).S (pad c [] c.PAY_WIDTH))
          pay := Acc.empty c.PAY_WIDTH
          phase := .finalized }
        [] := by
  rw [perform_finish_closeAad hp, flushPay_of_pos_zero (by rwa [closeAad_pay])]

/-- After a payload command of no bytes `FINISH` does as it does alone, but for the direction (R159). -/
theorem perform_finish_payload_nil {din : List Byte} (h : e.phase = .absorbingAad) (hv : e.void = false)
    (h0 : e.pay.pos = 0) :
    perform c .finish din (payload c d [] e).engine =
      succeed { (perform c .finish din e).engine with dir := d } [] := by
  have hlater : (payload c d [] e).engine.phase = .absorbingPayload := payload_phase d [] (.inl h)
  rw [perform_finish_of_pos_zero (permitted_of_legal ((payload_void ..).trans hv) (phaseLegal_finish.2 (.inr hlater))),
    perform_finish_of_pos_zero (permitted_of_legal hv (phaseLegal_finish.2 (.inl h))) h0,
    closeAad_other (by simp [hlater]), closeAad_aadPhase h, payload_nil d h]
  · rfl
  · rw [payload_nil d h]
    exact h0

/-- Settles O56: both payload commands, of no bytes, are `payload_nil`. -/
theorem zeroLengthPayloadThenFinish : Obligations.ZeroLengthPayloadThenFinish := by
  intro mk hmk s hp hv h0 hdin
  obtain ⟨d, hd⟩ : ∃ d, PayloadCommand (mk 0) d 0 := by
    simp only [List.mem_cons, List.not_mem_nil, or_false] at hmk
    obtain rfl | rfl := hmk
    · exact ⟨_, encrypt_payloadCommand 0⟩
    · exact ⟨_, decrypt_payloadCommand 0⟩
  have hq : perform Config.cfg (mk 0) s.din s.engine = payload Config.cfg d [] s.engine := by
    rw [hd.perform _ _ _ (hd.permitted_iff.2 ⟨hv, .inl hp⟩), hdin]
  have hout : (perform Config.cfg .finish [] s.engine).dout = [] := by
    rw [perform_finish_of_pos_zero (permitted_of_legal hv (phaseLegal_finish.2 (.inl hp))) h0, succeed_dout]
  refine ⟨_, _, _, _, _, _, exec_of_din (by rw [hdin]; rfl), answered_complete _ _,
    exec_of_din (by rw [hdin, hd.dinLength]; rfl), answered_complete _ _, exec_of_din rfl, answered_complete _ _, ?_⟩
  simp only [State.complete_engine, State.complete_din, Reply.response_dout]
  rw [hq, hdin, perform_finish_payload_nil d hp hv h0, payload_nil d hp]
  exact ⟨rfl, hout, rfl, rfl⟩

end Sys2Proof.Machine
end

section
/-! PROOFS. How a command ends in an error, which one it reports, and what error entry leaves (spec/60_exceptions.md R190 to
R198). -/

namespace Sys2Proof.Machine

variable {c : Cfg} {e : Engine c} {din : List Byte}

-- The error of a command

/-- Without an error end exactly the commands that run. -/
theorem perform_err_eq_none_iff {i : Instr} : (perform c i din e).err = .none ↔ Runs i e := by
  refine ⟨runs_of_success, fun hr => ?_⟩
  refine perform_cases i din e (fun q => q.err = .none) (fun hp => ?violation) (fun _ _ hi _ hk => ?badKey)
    (fun _ _ hi _ _ hn => ?badNonce) (fun _ hi _ hl => ?badTag) (fun _ _ _ hok => hok)
  case violation => exact absurd hr.permitted (ne_true_of_eq_false hp)
  case badKey => exact absurd (hr.constructLengths _ _ hi).1 hk
  case badNonce => exact absurd (hr.constructLengths _ _ hi).2 hn
  case badTag => exact absurd (hr.tagLength _ hi) hl

/-- In `ProtocolViolation` end exactly the commands that the prologue stops (R149, R192). -/
theorem perform_err_eq_violation_iff {i : Instr} :
    (perform c i din e).err = .protocolViolation ↔ permitted i e = false := by
  refine perform_cases i din e (fun q => q.err = .protocolViolation ↔ permitted i e = false) (fun hp => ?violation)
    (fun _ _ _ hp _ => ?badKey) (fun _ _ _ hp _ _ => ?badNonce) (fun _ _ hp _ => ?badTag) (fun hp _ _ hok => ?success)
  case violation => simp [hp]
  case badKey => simp [hp]
  case badNonce => simp [hp]
  case badTag => simp [hp]
  case success => simp [hp, hok]

theorem not_permitted_iff {i : Instr} (hi : i ≠ .release) :
    permitted i e = false ↔ e.void = true ∨ ¬ phaseLegal i e.phase e.dir = true := by
  rw [← Bool.not_eq_true, permitted_iff hi, not_and_or, Bool.not_eq_false]

/-- The lengths of a `CONSTRUCT` are checked in the order of R198, the key first. -/
theorem perform_construct_err {klen nlen : Nat} (hp : permitted (.construct klen nlen) e = true) :
    (perform c (.construct klen nlen) din e).err =
      if klen ≠ c.KEY_LEN then .invalidKeyLength else if nlen ≠ c.NONCE_LEN then .invalidNonceLength else .none := by
  split_ifs with hk hn
  · rw [perform_construct_badKey hp hk, raise_err]
  · rw [perform_construct_badNonce hp (not_not.1 hk) hn, raise_err]
  · rw [perform_construct hp (not_not.1 hk) (not_not.1 hn), succeed_err]

theorem perform_verify_err {len : Nat} (hp : permitted (.verify len) e = true) :
    (perform c (.verify len) din e).err = if len ≠ c.TAG_LEN then .invalidTagLength else .none := by
  split_ifs with hl
  · rw [perform_verify_badTag hp hl, raise_err]
  · rw [perform_verify hp (not_not.1 hl), succeed_err]

/-- Settles O46: the prologue comes first, and only `CONSTRUCT` and `VERIFY` check more than it. -/
theorem errorPriority : Obligations.ErrorPriority := by
  intro i s t r h ha hi
  obtain ⟨-, -, rfl⟩ := exec_answered h ha
  simp only [Reply.response_err]
  refine ⟨fun hv => ?void, fun _ hl => ?phase, fun hv hl => ?lengths⟩
  case void => exact perform_err_eq_violation_iff.2 (permitted_of_void hv hi)
  case phase => exact perform_err_eq_violation_iff.2 ((not_permitted_iff hi).2 (.inr (ne_true_of_eq_false hl)))
  case lengths =>
    have hp : permitted i s.engine = true := permitted_of_legal hv hl
    refine ⟨fun klen nlen hi => ?construct, fun len hi => ?verify, fun hc hver => ?other⟩
    case construct =>
      subst hi
      exact perform_construct_err hp
    case verify =>
      subst hi
      exact perform_verify_err hp
    case other => exact perform_err_eq_none_iff.2 ⟨hp, fun _ _ hi => absurd hi (hc _ _), fun _ hi => absurd hi (hver _)⟩

-- `ProtocolViolation` by phase and direction

theorem Phase.not_absorbing_iff {p : Phase} :
    ¬ (p = .absorbingAad ∨ p = .absorbingPayload) ↔ p = .idle ∨ p = .finalized ∨ p = .tagged := by
  cases p <;> decide

theorem Dir.ne_none_ne_enc_iff {d : Dir} : d ≠ .none ∧ d ≠ .enc ↔ d = .dec := by cases d <;> decide

theorem Dir.ne_none_ne_dec_iff {d : Dir} : d ≠ .none ∧ d ≠ .dec ↔ d = .enc := by cases d <;> decide

/-- Between commands `DIR` is `NONE` in `ABSORBING_AAD` and latched in `ABSORBING_PAYLOAD`, so a payload command of the
direction `d` is illegal outside these two phases and when another direction is latched (R192). -/
theorem Engine.Inv.payload_illegal_iff (h : e.Inv) {i : Instr} {d : Dir} {len : Nat} (hi : PayloadCommand i d len) :
    ¬ phaseLegal i e.phase e.dir = true ↔
      (e.phase = .idle ∨ e.phase = .finalized ∨ e.phase = .tagged) ∨ (e.dir ≠ .none ∧ e.dir ≠ d) := by
  rw [hi.legal, ← Phase.not_absorbing_iff]
  by_cases ha : e.phase = .absorbingAad
  · simp [ha, h.dir_none ha]
  by_cases hp : e.phase = .absorbingPayload
  · simp [hp, h.dir_latched hp]
  · simp [ha, hp]

/-- Settles O42: what the prologue stops, command by command. -/
theorem wrongPhaseIsReported : Obligations.WrongPhaseIsReported := by
  intro i s hinv hd
  refine ⟨_, _, exec_of_din hd, answered_complete _ _, ?_⟩
  rw [Reply.response_err, perform_err_eq_violation_iff]
  cases i with
  | construct klen nlen => simp [not_permitted_iff, phaseLegal_construct]
  | ingestAad len => simp [not_permitted_iff, phaseLegal_ingestAad]
  | encrypt len =>
    rw [not_permitted_iff (by simp), hinv.payload_illegal_iff (encrypt_payloadCommand len), Dir.ne_none_ne_enc_iff]
    simp
  | decrypt len =>
    rw [not_permitted_iff (by simp), hinv.payload_illegal_iff (decrypt_payloadCommand len), Dir.ne_none_ne_dec_iff]
    simp
  | finish =>
    rw [not_permitted_iff (by simp), phaseLegal_finish, Phase.not_absorbing_iff]
    simp
  | authenticate => simp [not_permitted_iff, phaseLegal_authenticate]
  | verify len => simp [not_permitted_iff, phaseLegal_verify]
  | release => simp [permitted_release]

-- The step that ends in an error

/-- The decoder rejects a word that no row selects (R75). -/
theorem decode_error_of_not_selected {w : CmdWord} (h : ∀ r ∈ opcodeMap, r.selects w = false) :
    ∃ err, decode w = .error err := by
  cases hd : decode w with
  | error err => exact ⟨err, rfl⟩
  | ok i =>
    obtain ⟨r, hr, hsel, -⟩ := selects_of_decode hd
    rw [h r hr] at hsel
    cases hsel

/-- Settles O7: the word does not decode, and the answer to such a word is error entry. -/
theorem illegalWordIsReported : Obligations.IllegalWordIsReported := by
  intro s t rest hin hsel
  obtain ⟨err, hd⟩ := decode_error_of_not_selected hsel
  exact ⟨_, _, step_undecoded hin hd, rfl, ⟨rfl, rfl, rfl, rfl, rfl, rfl⟩, raise_engine .illegalCommand _,
    rfl, rfl, rfl⟩

/-- A step that answers a presented command completes it with a reply that is error entry or reports no error. -/
theorem exists_reply_of_step_command {s t : State} {tr : Transaction} {rest : List HostEvent}
    (hin : s.input = .command tr :: rest) (h : step s = .next t) :
    ∃ q : Reply Config.cfg, t = (s.accept tr rest).complete q ∧ (q.err ≠ .none → q = raise q.err s.engine) := by
  cases hd : decode tr.cmd with
  | error err =>
    rw [step_undecoded hin hd] at h
    cases h
    exact ⟨_, rfl, fun _ => rfl⟩
  | ok i =>
    rw [stepRunsDecodedCommand s tr rest i hin hd] at h
    obtain ⟨-, rfl⟩ := exec_next h
    refine ⟨_, rfl, fun herr => ?_⟩
    obtain ⟨err, -, -, hq⟩ | ⟨-, hok⟩ := perform_raises_or_runs i tr.din s.engine
    · rw [hq, raise_err]
    · exact absurd hok herr

/-- A step that answers a presented command with an error is error entry with that error (R196). -/
theorem step_error {s t : State} {tr : Transaction} {rest : List HostEvent} {r : Response}
    (hin : s.input = .command tr :: rest) (h : step s = .next t) (hout : t.output = s.output ++ [r])
    (herr : r.err ≠ .none) :
    t = (s.accept tr rest).complete (raise r.err s.engine) ∧ r = (raise r.err s.engine).response := by
  obtain ⟨q, rfl, hq⟩ := exists_reply_of_step_command hin h
  obtain rfl : q.response = r := by simpa using hout
  have hraise : q = raise q.err s.engine := hq herr
  exact ⟨congrArg _ hraise, congrArg _ hraise⟩

/-- Settles O43: error entry, field by field. -/
theorem errorEntryFrame : Obligations.ErrorEntryFrame := by
  intro s t tr rest r hin h hout herr
  obtain ⟨rfl, hr⟩ := step_error hin h hout herr
  rw [hr]
  refine ⟨rfl, rfl, rfl, rfl, rfl, rfl, fun hp => ?inst, fun hp => ?idle, rfl, rfl, rfl, rfl, rfl, rfl, rfl, rfl⟩
  case inst => simp [hp]
  case idle => simp [hp]

/-- Settles O44: error entry where no instance exists. -/
theorem errorsInIdleChangeNothing : Obligations.ErrorsInIdleChangeNothing := by
  intro s t tr rest r hin hp h hout herr
  obtain ⟨rfl, -⟩ := step_error hin h hout herr
  rw [State.complete_engine, raise_engine, afterError_idle _ hp]

end Sys2Proof.Machine
end

section
/-! PROOFS. Waiting and the reset event, the runs of `CORE`, and how a message within a run gets complete
(spec/70_reset_and_hazards.md R230, R232, R244, spec/10_state.md R36). -/

namespace Sys2Proof.Machine

/-- Settles O8: there is no event to take. -/
theorem stepWaitsForAnEvent : Obligations.StepWaitsForAnEvent := by
  intro s hin
  simp only [step, nextEvent, hin]

/-- Settles O9: the reset event is taken, and what it leaves is the reset engine. -/
theorem resetEventResetsEngine : Obligations.ResetEventResetsEngine := fun s rest hin =>
  ⟨s.resetEvent rest, step_reset hin, State.resetEvent_engine s rest, State.resetEvent_input s rest,
    State.resetEvent_output s rest⟩

-- Trajectories

/-- Each state of a trajectory is followed by its step. -/
theorem step_of_trajectory {n k : Nat} {s u v : State} (hu : (trajectory n s)[k]? = some u)
    (hv : (trajectory n s)[k + 1]? = some v) : step u = .next v := by
  induction n generalizing s k with
  | zero => simp [trajectory] at hv
  | succ n ih =>
    cases hs : step s with
    | next t =>
      rw [trajectory_next n hs] at hu hv
      rw [List.getElem?_cons_succ] at hv
      cases k with
      | zero =>
        rw [trajectory_first] at hv
        rwa [← Option.some.inj hu, ← Option.some.inj hv]
      | succ k => exact ih hu hv
    | fault r => simp [trajectory, hs] at hv
    | refused r => simp [trajectory, hs] at hv

/-- With the commands of a run to come the model does not stop before they are executed. -/
theorem trajectory_length {cmds : List Transaction} {s : State} (hrun : isRun cmds)
    (hin : s.input = cmds.map .command) : (trajectory cmds.length s).length = cmds.length + 1 := by
  induction cmds generalizing s with
  | nil => rfl
  | cons x cmds ih =>
    obtain ⟨hw, hrest⟩ := List.forall_mem_cons.1 hrun
    obtain ⟨q, hs⟩ := step_command hin hw
    rw [List.length_cons, trajectory_next _ hs, List.length_cons, ih hrest rfl]

/-- After the first `k` commands of a run the others are still to come, and `k` responses have been given. -/
theorem trajectory_port {cmds : List Transaction} {s t : State} {k : Nat} (hrun : isRun cmds)
    (hin : s.input = cmds.map .command) (ht : (trajectory cmds.length s)[k]? = some t) :
    t.input = (cmds.drop k).map .command ∧ t.output.length = s.output.length + k := by
  induction cmds generalizing s k with
  | nil =>
    obtain ⟨rfl, rfl⟩ : k = 0 ∧ s = t := by simpa [trajectory, List.getElem?_singleton] using ht
    exact ⟨hin, rfl⟩
  | cons x cmds ih =>
    cases k with
    | zero =>
      rw [trajectory_first] at ht
      cases ht
      exact ⟨hin, rfl⟩
    | succ k =>
      obtain ⟨hw, hrest⟩ := List.forall_mem_cons.1 hrun
      obtain ⟨q, hs⟩ := step_command hin hw
      rw [List.length_cons, trajectory_next _ hs, List.getElem?_cons_succ] at ht
      obtain ⟨hinput, houtput⟩ := ih hrest rfl ht
      rw [State.complete_output, State.accept_output, List.length_append, List.length_singleton] at houtput
      exact ⟨hinput, by omega⟩

-- Runs

section
variable {cmds : List Transaction} {k : Nat} {s t : State}

theorem runStates_length (hrun : isRun cmds) : (runStates cmds).length = cmds.length + 1 := trajectory_length hrun rfl

theorem exists_runState (hrun : isRun cmds) (hk : k ≤ cmds.length) : ∃ s, (runStates cmds)[k]? = some s :=
  ⟨_, List.getElem?_eq_getElem (by rw [runStates_length hrun]; omega)⟩

theorem runState_index_le (hrun : isRun cmds) (hs : (runStates cmds)[k]? = some s) : k ≤ cmds.length := by
  obtain ⟨hk, -⟩ := List.getElem?_eq_some_iff.1 hs
  rw [runStates_length hrun] at hk
  omega

theorem runStates_getLast? (hrun : isRun cmds) : (runStates cmds).getLast? = (runStates cmds)[cmds.length]? := by
  rw [List.getLast?_eq_getElem?, runStates_length hrun, Nat.add_sub_cancel]

theorem runState_input (hrun : isRun cmds) (hs : (runStates cmds)[k]? = some s) :
    s.input = (cmds.drop k).map .command := (trajectory_port hrun rfl hs).1

theorem runState_output_length (hrun : isRun cmds) (hs : (runStates cmds)[k]? = some s) : s.output.length = k :=
  (trajectory_port hrun rfl hs).2.trans (Nat.zero_add k)

theorem runObservation_length (hrun : isRun cmds) : (runObservation cmds).length = cmds.length := by
  obtain ⟨s, hs⟩ := exists_runState hrun (Nat.le_refl _)
  rw [runObservation, runStates_getLast? hrun, hs]
  exact runState_output_length hrun hs

/-- From one state of a run to the next, the step takes the well-formed command at that place of the run. -/
theorem runStates_step (hrun : isRun cmds) (hs : (runStates cmds)[k]? = some s)
    (ht : (runStates cmds)[k + 1]? = some t) :
    ∃ x rest, cmds[k]? = some x ∧ x.wellFormed = true ∧ s.input = .command x :: rest ∧ step s = .next t := by
  have hk : k < cmds.length := runState_index_le hrun ht
  refine ⟨cmds[k], (cmds.drop (k + 1)).map .command, List.getElem?_eq_getElem hk, hrun _ (List.getElem_mem hk), ?_,
    step_of_trajectory hs ht⟩
  rw [runState_input hrun hs, List.drop_eq_getElem_cons hk, List.map_cons]

/-- After a `RELEASE` of a run the engine is the reset engine. -/
theorem runState_after_release {x : Transaction} (hrun : isRun cmds) (hx : cmds[k]? = some x)
    (hrel : x.isRelease = true) (ht : (runStates cmds)[k + 1]? = some t) : t.engine = Engine.reset Config.cfg := by
  obtain ⟨s, hs⟩ := exists_runState hrun (Nat.le_of_succ_le (runState_index_le hrun ht))
  obtain ⟨y, rest, hy, hw, hin, hstep⟩ := runStates_step hrun hs ht
  obtain rfl : x = y := Option.some.inj (hx.symm.trans hy)
  have hdec : decode x.cmd = .ok .release := by simpa [Transaction.isRelease] using hrel
  rw [step_decoded hin hw hdec] at hstep
  cases hstep
  rw [State.complete_engine, perform_release, succeed_engine]

end

/-- Settles O58: the model does not stop within a run, each step completes one command, and `RELEASE` leaves the reset
engine. -/
theorem runsAndCompleteRuns : Obligations.RunsAndCompleteRuns := by
  intro cmds hrun
  refine ⟨runStates_length hrun, runObservation_length hrun, fun k s t hs ht => ?answers, fun hcomplete => ?complete⟩
  case answers =>
    obtain ⟨x, rest, -, -, hin, hstep⟩ := runStates_step hrun hs ht
    obtain ⟨q, rfl, -⟩ := exists_reply_of_step_command hin hstep
    exact ⟨hstep, q.response, rfl⟩
  case complete =>
    obtain ⟨-, x, hlast, hrel⟩ := hcomplete
    obtain ⟨s, hs⟩ := exists_runState hrun (Nat.le_refl _)
    refine ⟨s, (runStates_getLast? hrun).trans hs, ?_, by rw [runState_input hrun hs, List.drop_length, List.map_nil]⟩
    rw [List.getLast?_eq_getElem?] at hlast
    have hpos : 0 < cmds.length := List.length_pos_iff.2 (by rintro rfl; cases hlast)
    rw [← Nat.sub_add_cancel hpos] at hs
    exact runState_after_release hrun hlast hrel hs

-- Complete messages

/-- An error voids an instance, so none ends in `TAGGED` with `VOID = 0` (R196). -/
theorem raise_void_of_tagged {c : Cfg} {e : Engine c} (err : ErrCode) (hp : (raise err e).engine.phase = .tagged) :
    (raise err e).engine.void = true := by
  rw [raise_phase] at hp
  simp [hp]

/-- The one way to `TAGGED` with `VOID = 0`: an `AUTHENTICATE` or `VERIFY` that ends without an error, in `FINALIZED`. -/
theorem exec_tagged {i : Instr} {s t : State} {r : Response} (h : exec i s = .next t) (ha : Answered s t r)
    (hp : t.engine.phase = .tagged) (hv : t.engine.void = false) :
    r.err = .none ∧ s.engine.phase = .finalized ∧ (i = .authenticate ∨ ∃ len, i = .verify len) := by
  have hok : r.err = .none := by
    obtain ⟨-, rfl, rfl⟩ := exec_answered h ha
    obtain ⟨err, -, -, hq⟩ | ⟨-, hok⟩ := perform_raises_or_runs i s.din s.engine
    · rw [State.complete_engine, hq] at hp hv
      cases (raise_void_of_tagged err hp).symm.trans hv
    · exact hok
  have htrans := (phaseTransitions i s t r h ha).2 hok
  refine ⟨hok, ?_⟩
  cases i with
  | authenticate => exact ⟨htrans.1, .inl rfl⟩
  | verify len => exact ⟨htrans.1, .inr ⟨len, rfl⟩⟩
  | construct klen nlen => cases hp.symm.trans htrans.2
  | ingestAad len => cases hp.symm.trans htrans.2
  | encrypt len => cases hp.symm.trans htrans.2
  | decrypt len => cases hp.symm.trans htrans.2
  | finish => cases hp.symm.trans htrans.2
  | release => cases hp.symm.trans htrans

/-- A step that takes a command and ends in `TAGGED` with `VOID = 0` executed a successful `AUTHENTICATE` or `VERIFY`. -/
theorem step_tagged {s t : State} {x : Transaction} {rest : List HostEvent} (hin : s.input = .command x :: rest)
    (h : step s = .next t) (hp : t.engine.phase = .tagged) (hv : t.engine.void = false) :
    s.engine.phase = .finalized ∧ (decode x.cmd = .ok .authenticate ∨ ∃ len, decode x.cmd = .ok (.verify len)) ∧
      ∃ r, t.observation = s.observation ++ [r] ∧ r.err = .none := by
  cases hd : decode x.cmd with
  | error err =>
    rw [step_undecoded hin hd] at h
    cases h
    cases (raise_void_of_tagged .illegalCommand hp).symm.trans hv
  | ok i =>
    have hexec : exec i (s.accept x rest) = .next t := (stepRunsDecodedCommand s x rest i hin hd).symm.trans h
    obtain ⟨-, rfl⟩ := exec_next hexec
    obtain ⟨hok, hfin, htag⟩ := exec_tagged hexec (answered_complete _ _) hp hv
    refine ⟨hfin, ?_, _, rfl, hok⟩
    obtain rfl | ⟨len, rfl⟩ := htag
    · exact .inl rfl
    · exact .inr ⟨len, rfl⟩

/-- Settles O59: the command just before the state in `TAGGED` with `VOID = 0` is the one sought; the state itself shows that
no `RELEASE` came between. -/
theorem messageCompletesByTag : Obligations.MessageCompletesByTag := by
  intro cmds i hrun hmessage
  obtain ⟨-, j, t, hwithin, ht, hp, hv⟩ := hmessage
  obtain ⟨k, rfl⟩ : ∃ k, j = k + 1 := ⟨j - 1, by have := hwithin.1; omega⟩
  obtain ⟨s, hs⟩ := exists_runState hrun (Nat.le_of_succ_le (runState_index_le hrun ht))
  obtain ⟨x, rest, hx, -, hin, hstep⟩ := runStates_step hrun hs ht
  obtain ⟨hfin, hdec, r, hobs, hok⟩ := step_tagged hin hstep hp hv
  exact ⟨k, x, s, t, r, hwithin, hx, hdec, hs, ht, hfin, hp, hv, hobs, hok⟩

end Sys2Proof.Machine
end

section
/-! PROOFS. The encoding vectors V-E1 to V-E14 (spec/95_test_vectors.md section 6), and the three ways a word is illegal
(spec/30_encoding.md R75). -/

namespace Sys2Proof

variable {w : CmdWord}

/-- The reserved bits are looked at first, whatever the opcode. -/
theorem decode_of_reservedField_ne_zero (hr : reservedField w ≠ 0) : decode w = .error .reservedBits :=
  if_pos hr

/-- Of the illegal opcodes, 0x00 lies below the eight rows and the others above. -/
theorem decode_of_unknown_opField (hr : reservedField w = 0) (hop : opField w = 0 ∨ 8 < opField w) :
    decode w = .error .unknownOpcode := by
  rw [decode, if_neg (not_not_intro hr)]
  split
  case h_9 => rfl
  all_goals omega

/-- The opcodes of format Z allow no operand bit. -/
theorem decode_of_operandBits (hr : reservedField w = 0) (hop : opField w = 5 ∨ opField w = 6 ∨ opField w = 8)
    (hl : lenField w ≠ 0) : decode w = .error .operandBits := by
  rw [decode, if_neg (not_not_intro hr)]
  obtain hop | hop | hop := hop <;> rw [hop] <;> exact if_neg hl

/-- Settles O4: each legal word is the encoded word of the instruction listed, which O1 reads back, and each illegal word falls
under one of the three refusals. -/
theorem sampleWordsDecode : Obligations.SampleWordsDecode := by
  refine ⟨?e1, ?e2, ?e3, ?e4, ?e5, ?e6, ?e7, ?e8, ?e9, ?e10, ?e11, ?e12, ?e13, ?e14⟩
  case e1 => exact decodeOfEncode (.construct 16 16) (by decide)
  case e2 => exact decodeOfEncode (.construct 15 16) (by decide)
  case e3 => exact decodeOfEncode (.ingestAad 11) (by decide)
  case e4 => exact decodeOfEncode (.encrypt 65535) (by decide)
  case e5 => exact decodeOfEncode (.decrypt 0) (by decide)
  case e6 => exact decodeOfEncode .finish (by decide)
  case e7 => exact decodeOfEncode .authenticate (by decide)
  case e8 => exact decodeOfEncode (.verify 16) (by decide)
  case e9 => exact decodeOfEncode .release (by decide)
  case e10 => exact decode_of_unknown_opField (by decide) (by decide)
  case e11 => exact decode_of_unknown_opField (by decide) (by decide)
  case e12 => exact decode_of_operandBits (by decide) (by decide) (by decide)
  case e13 => exact decode_of_reservedField_ne_zero (by decide)
  case e14 => exact decode_of_reservedField_ne_zero (by decide)

end Sys2Proof
end
